-- ==== Sys2Proof/Word.lean ====
section
/-! DEFINITION. The block's plain values: bytes, directions, data forms, the four buffers' names, and what an error value is
made of (00_scope.md R9, R11; 60_exceptions.md R161, R162, R164). Names only; every computation stands in Decode.lean or
under Machine/. -/

namespace Sys2Proof

/-- R9: a byte is 8 bits, unsigned. -/
abbrev Byte := BitVec 8

/-- R11: `Direction = H2C | C2H`, host to controller and controller to host. -/
inductive Direction where
  | h2c
  | c2h
  deriving DecidableEq, Repr, Inhabited

/-- R60: the two forms that carry data. -/
inductive Form where
  | normal
  | extended
  deriving DecidableEq, Repr, Inhabited

/-- R7, R70: the legal values of the parameter `EXT_LCS_RULE`. -/
inductive ExtLcsRule where
  | sum16
  | bytewise
  | lcs1
  deriving DecidableEq, Repr, Inhabited

/-- R40: the four byte-addressed spaces the block reaches. -/
inductive Space where
  | txp
  | txf
  | rxf
  | rxp
  deriving DecidableEq, Repr, Inhabited

/-- R162: the checksum a `ChecksumMismatch` is about (codes in Machine/Flags.lean). -/
inductive ChecksumField where
  | lcs
  | lcs16
  | dcs
  deriving DecidableEq, Repr, Inhabited

/-- R162: the value of a checksum as an error records it: 8 bits for `LCS` and `DCS`; for `LCS16` the 16-bit value under
`sum16`, else the 2 or 1 bytes. -/
inductive ChecksumValue where
  | byte (v : Byte)
  | word (v : BitVec 16)
  | bytes (vs : List Byte)
  deriving DecidableEq, Repr, Inhabited

/-- R164: the seven reasons of a `FramingError`. -/
inductive FramingReason where
  | badPreamble
  | badStartCode
  | zeroLength
  | nonCanonicalLength
  | badTFI
  | badPostamble
  | trailingBytes
  deriving DecidableEq, Repr, Inhabited

/-- R162: what a `FramingError` shows: the offending byte, or the length for `NonCanonicalLength`. -/
inductive Offender where
  | byte (v : Byte)
  | length (v : Nat)
  deriving DecidableEq, Repr, Inhabited

/-- R161: the names of the `ProtocolError` variants, in the source's order. -/
inductive ErrorName where
  | checksumMismatch
  | framingError
  | timeout
  | unexpectedFrameKind
  | errorFrameReceived
  | shortRead
  | unknownOpcode
  | statusFlagError
  deriving DecidableEq, Repr, Inhabited

/-- R26, R162: the record `DEC_ERR_INFO`, one shape for each error that DECODE raises. `avail` is the spec's `have`. -/
inductive ErrorInfo where
  | checksum (field : ChecksumField) (expected actual : ChecksumValue) (position : Nat)
  | framing (reason : FramingReason) (position : Nat) (offender : Offender)
  | short (position avail : Nat)
  deriving DecidableEq, Repr, Inhabited

/-- R11, R160: `ProtocolError`, a closed variant type, with the information fields of R162. The width of the two codes that
the block never produces in an error value is a DESIGN CHOICE (one byte; entry 16). -/
inductive ProtocolError where
  | checksumMismatch (field : ChecksumField) (expected actual : ChecksumValue) (position : Nat)
  | framingError (reason : FramingReason) (position : Nat) (offender : Offender)
  | timeout
  | unexpectedFrameKind
  | errorFrameReceived (status : Byte)
  | shortRead (position avail : Nat)
  | unknownOpcode
  | statusFlagError (code : Byte)
  deriving DecidableEq, Repr, Inhabited

end Sys2Proof
end

