-- ==== Sys2Proof/Config.lean ====
section
/-! DEFINITION. What an instance fixes (00_scope.md R7, 10_state.md R30) and the free values (10_state.md R33; U9 of
93_implementation_defined.md). The free values are opaque constants without a body: no proof can learn what they are. -/

namespace Sys2Proof

/-- R7, R30: the static parameters of an instance. They have no address, and no operation writes them. -/
structure Params where
  /-- `ERROR_BYTES`, the error frame. -/
  errorBytes : List Byte
  /-- `ERROR_STATUS_INDEX`, where the status code stands in `ERROR_BYTES`. -/
  errorStatusIndex : Nat
  /-- `EXT_LCS_RULE`, how the extended length checksum is formed. -/
  extLcsRule : ExtLcsRule
  /-- `MAX_PAYLOAD`, the longest payload ENCODE takes. -/
  maxPayload : Nat
  deriving DecidableEq, Repr

/-- R7, column "value this hardware takes". The bytes of the error frame come to the spec from general knowledge
(D2, U1; entry 3), and `sum16` is the spec's choice (D3, U2; entry 4). -/
def Config.hardware : Params where
  errorBytes := [0x00, 0x00, 0xFF, 0x01, 0xFF, 0x7F, 0x81, 0x00]
  errorStatusIndex := 5
  extLcsRule := .sum16
  maxPayload := 65534

/-- R33: `ENC_DIR` after reset is unspecified: a FREE VALUE (entry 5). -/
opaque Config.resetEncDir : Direction

/-- R33: `DEC_DIR` after reset is unspecified: a FREE VALUE (entry 5). -/
opaque Config.resetDecDir : Direction

/-- R33: `DEC_STATUS` after reset is unspecified: a FREE VALUE (entry 5). -/
opaque Config.resetDecStatus : Byte

/-- R33: `DEC_ERR_INFO` after reset is unspecified: a FREE VALUE (entry 5). -/
opaque Config.resetDecErrInfo : ErrorInfo

/-- R33: `EVT_STATUS` after reset is unspecified: a FREE VALUE (entry 5). -/
opaque Config.resetEvtStatus : Byte

/-- R33, U9: the byte an operation finds at an index of a buffer that nothing has written: a FREE VALUE (entry 6). -/
opaque Config.unwrittenByte : Space → Nat → Byte

end Sys2Proof
end

