-- ==== Sys2Proof/Syntax.lean ====
section
/-! DEFINITION. The wire forms of a frame, one constructor for each row of spec/opcode_table.json (30_encoding.md R60, R76,
R81). They are also the values of the source's `TransportFrame` (00_scope.md R11), the direction of a data form being part of
its row. -/

namespace Sys2Proof

/-- The forms of the opcode table. A payload is the byte string between TFI and data checksum (R72); the argument of `error`
is the status code the error frame carries (R11, R66). -/
inductive Instr where
  /-- Row ACK (R64). -/
  | ack
  /-- Row NACK (R65). -/
  | nack
  /-- Row ERROR (R66). -/
  | error (status : Byte)
  /-- Row EXTENDED.H2C (R63), TFI `D4`. -/
  | extendedH2C (payload : List Byte)
  /-- Row EXTENDED.C2H (R63), TFI `D5`. -/
  | extendedC2H (payload : List Byte)
  /-- Row NORMAL.H2C (R62), TFI `D4`. -/
  | normalH2C (payload : List Byte)
  /-- Row NORMAL.C2H (R62), TFI `D5`. -/
  | normalC2H (payload : List Byte)
  deriving DecidableEq, Repr

end Sys2Proof
end

