-- ==== Sys2Proof/WellFormed.lean ====
section
/-! DEFINITION. When a form is one that can stand on the wire: the payload lengths each data form can carry (30_encoding.md
R62, R63, R74) and the one status an error frame holds (R66). -/

namespace Sys2Proof

/-- R62, R74: a Normal frame carries 0 to 254 payload bytes. -/
def normalPayloadOk (pd : List Byte) : Bool := decide (pd.length ≤ 254)

/-- R63, R74: an Extended frame carries 255 to 65534 payload bytes. -/
def extendedPayloadOk (pd : List Byte) : Bool := decide (255 ≤ pd.length ∧ pd.length ≤ 65534)

/-- R66: the status code of the error frame is the byte at `ERROR_STATUS_INDEX` of `ERROR_BYTES`. -/
def errorStatusOk (c : Params) (status : Byte) : Bool := decide (c.errorBytes[c.errorStatusIndex]? = some status)

/-- The form can stand on the wire of an instance with parameters `c`. -/
def Instr.wellFormed (c : Params) : Instr → Bool
  | .ack => true
  | .nack => true
  | .error status => errorStatusOk c status
  | .extendedH2C pd => extendedPayloadOk pd
  | .extendedC2H pd => extendedPayloadOk pd
  | .normalH2C pd => normalPayloadOk pd
  | .normalC2H pd => normalPayloadOk pd

end Sys2Proof
end

