-- ==== Sys2Proof/Decode.lean ====
section
/-! DEFINITION. The codec's pure functions, which are normative (D1): the byte arithmetic and checksums (40_checksums.md), the
decoder `decodeFrame` (42_decode.md), total on every byte string and rejecting by name, and after it the encoder
(41_encode.md), with `frameTotalLen` (30_encoding.md R75). All take the parameters `Params` of R7. -/

namespace Sys2Proof

/-! ### Constants (R6) -/

/-- R6, R64: the ACK frame. -/
def ackBytes : List Byte := [0x00, 0x00, 0xFF, 0x00, 0xFF, 0x00]

/-- R6, R65: the NACK frame. -/
def nackBytes : List Byte := [0x00, 0x00, 0xFF, 0xFF, 0xFF, 0x00]

/-- R6, R61: `PREAMBLE START_CODE`, the first three bytes of every frame. -/
def envelopeBytes : List Byte := [0x00, 0x00, 0xFF]

/-- R6, R63: `EXT_MARK`. -/
def extMark : List Byte := [0xFF, 0xFF]

/-- R6, R61: `POSTAMBLE`, the last byte of every frame. -/
def postamble : Byte := 0x00

/-! ### Byte arithmetic (R9, R90) -/

/-- R9: the upper byte of a 16-bit value. -/
def hi8 (v : Nat) : Byte := BitVec.ofNat 8 (v / 256 % 256)

/-- R9: the lower byte of a 16-bit value. -/
def lo8 (v : Nat) : Byte := BitVec.ofNat 8 (v % 256)

/-- R9: two bytes joined, the first the more significant. -/
def be16 (a b : Byte) : Nat := 256 * a.toNat + b.toNat

/-- R90: `(256 - x) mod 256`, the byte that sums with `x` to 0 mod 256. -/
def neg8 (x : Byte) : Byte := BitVec.ofNat 8 ((256 - x.toNat) % 256)

/-- R90: `(65536 - x) mod 65536`. -/
def neg16 (x : Nat) : Nat := (65536 - x) % 65536

/-- R9: the unbounded sum of the bytes of a string, 0 for the empty one. -/
def byteSum : List Byte → Nat
  | [] => 0
  | b :: bs => b.toNat + byteSum bs

/-! ### Checksums (R91 to R94) -/

/-- R91: the length checksum of a Normal frame. -/
def lcs8 (len : Byte) : Byte := neg8 len

/-- R92: the data checksum of a Normal or Extended frame. -/
def dcs (tfi : Byte) (pd : List Byte) : Byte := neg8 (BitVec.ofNat 8 ((tfi.toNat + byteSum pd) % 256))

/-- R93: the 16-bit length checksum of `sum16`. -/
def lcs16 (len : Nat) : Nat := neg16 len

/-- R70, R93: how many bytes the extended length checksum has. -/
def extLcsSize (r : ExtLcsRule) : Nat :=
  match r with
  | .sum16 => 2
  | .bytewise => 2
  | .lcs1 => 1

/-- R93: the bytes of the extended length checksum. -/
def extLcs (r : ExtLcsRule) (len : Nat) : List Byte :=
  match r with
  | .sum16 => [hi8 (lcs16 len), lo8 (lcs16 len)]
  | .bytewise => [neg8 (hi8 len), neg8 (lo8 len)]
  | .lcs1 => [neg8 (BitVec.ofNat 8 (((hi8 len).toNat + (lo8 len).toNat) % 256))]

/-- R94: the length checksum of a Normal frame holds. -/
def lcsOk (len cks : Byte) : Bool := decide ((len.toNat + cks.toNat) % 256 = 0)

/-- R94: the data checksum holds. -/
def dcsOk (tfi : Byte) (pd : List Byte) (d : Byte) : Bool := decide ((tfi.toNat + byteSum pd + d.toNat) % 256 = 0)

/-- R94: the extended length checksum holds. -/
def extLcsOk (r : ExtLcsRule) (lenm lenl : Byte) (cks : List Byte) : Bool := decide (cks = extLcs r (be16 lenm lenl))

/-- R162: an extended length checksum as an error records it: one 16-bit number under `sum16`, else its bytes. -/
def extLcsValue (r : ExtLcsRule) (cks : List Byte) : ChecksumValue :=
  match r, cks with
  | .sum16, [m, l] => .word (BitVec.ofNat 16 (be16 m l))
  | _, _ => .bytes cks

/-! ### Direction byte (R71) -/

/-- R71: `tfi_of`. -/
def tfiOf : Direction → Byte
  | .h2c => 0xD4
  | .c2h => 0xD5

/-- R71: `dir_of`; a byte other than `D4`, `D5` is no direction. -/
def dirOf (tfi : Byte) : Option Direction :=
  if tfi = 0xD4 then some .h2c else if tfi = 0xD5 then some .c2h else none

/-- The row of the opcode table for a data form and a direction. -/
def dataFrame : Form → Direction → List Byte → Instr
  | .normal, .h2c, pd => .normalH2C pd
  | .normal, .c2h, pd => .normalC2H pd
  | .extended, .h2c, pd => .extendedH2C pd
  | .extended, .c2h, pd => .extendedC2H pd

/-! ### The decoder (R120 to R133) -/

/-- R47: `get(i)`, the only way the generic parse reads its input. -/
def getByte (b : List Byte) (i : Nat) : Except ProtocolError Byte :=
  match b[i]? with
  | some v => .ok v
  | none => .error (.shortRead i b.length)

/-- R131: `get` at `n` consecutive offsets from `start`, failing at the first offset that is missing. -/
def getRun (b : List Byte) (start n : Nat) : Except ProtocolError (List Byte) :=
  let run := (b.drop start).take n
  if run.length = n then .ok run else .error (.shortRead (start + run.length) b.length)

/-- A check of the generic parse: go on if it holds, else raise (R10 `raise`). -/
def require (holds : Bool) (e : ProtocolError) : Except ProtocolError Unit :=
  if holds then .ok () else .error e

/-- R124: offsets 0, 1, 2 hold `00`, `00`, `FF`, each obtained and then checked. -/
def checkEnvelope (b : List Byte) : Except ProtocolError Unit := do
  let b0 ← getByte b 0
  require (b0 == 0x00) (.framingError .badPreamble 0 (.byte b0))
  let b1 ← getByte b 1
  require (b1 == 0x00) (.framingError .badStartCode 1 (.byte b1))
  let b2 ← getByte b 2
  require (b2 == 0xFF) (.framingError .badStartCode 2 (.byte b2))

/-- R126, R127: the Normal header, with `LEN` and `LCS` already read: form, length, offset of the TFI. -/
def parseNormalHeader (len cks : Byte) : Except ProtocolError (Form × Nat × Nat) := do
  require (lcsOk len cks) (.checksumMismatch .lcs (.byte (lcs8 len)) (.byte cks) 4)
  require (len != 0x00) (.framingError .zeroLength 3 (.byte len))
  pure (.normal, len.toNat, 5)

/-- R128, R129: the Extended header: form, length, offset of the TFI. -/
def parseExtendedHeader (c : Params) (b : List Byte) : Except ProtocolError (Form × Nat × Nat) := do
  let lenm ← getByte b 5
  let lenl ← getByte b 6
  let cks ← getRun b 7 (extLcsSize c.extLcsRule)
  let len := be16 lenm lenl
  require (extLcsOk c.extLcsRule lenm lenl cks)
    (.checksumMismatch .lcs16 (extLcsValue c.extLcsRule (extLcs c.extLcsRule len)) (extLcsValue c.extLcsRule cks) 7)
  require (decide (256 ≤ len)) (.framingError .nonCanonicalLength 5 (.length len))
  pure (.extended, len, 7 + extLcsSize c.extLcsRule)

/-- R125: offsets 3 and 4 are both obtained, then select the branch. -/
def parseHeader (c : Params) (b : List Byte) : Except ProtocolError (Form × Nat × Nat) := do
  let s0 ← getByte b 3
  let s1 ← getByte b 4
  if s0 = 0xFF ∧ s1 = 0xFF then parseExtendedHeader c b else parseNormalHeader s0 s1

/-- R130: the TFI at `base` gives the direction. -/
def parseTfi (b : List Byte) (base : Nat) : Except ProtocolError Direction := do
  let tfi ← getByte b base
  match dirOf tfi with
  | some dir => pure dir
  | none => .error (.framingError .badTFI base (.byte tfi))

/-- R133: the postamble, then the end of the buffer. -/
def checkEnd (b : List Byte) (at_ : Nat) : Except ProtocolError Unit := do
  let p ← getByte b at_
  require (p == postamble) (.framingError .badPostamble at_ (.byte p))
  match b[at_ + 1]? with
  | none => pure ()
  | some x => .error (.framingError .trailingBytes (at_ + 1) (.byte x))

/-- R130 to R133: TFI, payload, data checksum, postamble, end of buffer. -/
def parseBody (b : List Byte) (form : Form) (len base : Nat) : Except ProtocolError Instr := do
  let dir ← parseTfi b base
  let pd ← getRun b (base + 1) (len - 1)
  let d ← getByte b (base + len)
  require (dcsOk (tfiOf dir) pd d) (.checksumMismatch .dcs (.byte (dcs (tfiOf dir) pd)) (.byte d) (base + len))
  checkEnd b (base + len + 1)
  pure (dataFrame form dir pd)

/-- R120, Stage B: the generic parse, strictly in index order. -/
def genericParse (c : Params) (b : List Byte) : Except ProtocolError Instr := do
  checkEnvelope b
  let h ← parseHeader c b
  parseBody b h.1 h.2.1 h.2.2

/-- R66, R123: the status code an error frame carries. (For an index outside `ERROR_BYTES`, which R7 excludes, 0;
entry 19.) -/
def errorStatus (c : Params) : Byte := (c.errorBytes[c.errorStatusIndex]?).getD 0

/-- R120: DECODE as a pure function: Stage A compares the whole buffer with the fixed sequences (R121 to R123), every other
buffer goes to the generic parse. -/
def decodeFrame (c : Params) (b : List Byte) : Except ProtocolError Instr :=
  if b = ackBytes then .ok .ack
  else if b = nackBytes then .ok .nack
  else if b = c.errorBytes then .ok (.error (errorStatus c))
  else genericParse c b

/-! ### The encoder (R101 to R104) -/

/-- R101: the bytes of a Normal frame. -/
def normalBytes (dir : Direction) (pd : List Byte) : List Byte :=
  let len : Byte := BitVec.ofNat 8 (1 + pd.length)
  envelopeBytes ++ [len, lcs8 len] ++ [tfiOf dir] ++ pd ++ [dcs (tfiOf dir) pd] ++ [postamble]

/-- R102: the bytes of an Extended frame. -/
def extendedBytes (c : Params) (dir : Direction) (pd : List Byte) : List Byte :=
  let len := 1 + pd.length
  envelopeBytes ++ extMark ++ [hi8 len, lo8 len] ++ extLcs c.extLcsRule len ++ [tfiOf dir] ++ pd ++ [dcs (tfiOf dir) pd]
    ++ [postamble]

/-- The bytes of a form. That of `error` is `ERROR_BYTES` (R66); no operation emits it (R105). -/
def encode (c : Params) : Instr → List Byte
  | .ack => ackBytes
  | .nack => nackBytes
  | .error _ => c.errorBytes
  | .extendedH2C pd => extendedBytes c .h2c pd
  | .extendedC2H pd => extendedBytes c .c2h pd
  | .normalH2C pd => normalBytes .h2c pd
  | .normalC2H pd => normalBytes .c2h pd

/-- R74: the encoder's choice of form: Normal when `1 + len(payload) ≤ 255`. -/
def chooseForm (pd : List Byte) : Form := if 1 + pd.length ≤ 255 then .normal else .extended

/-- R100: ENCODE as a pure function; `none` is the refusal of a payload longer than `MAX_PAYLOAD`. -/
def encodeFrame (c : Params) (dir : Direction) (pd : List Byte) : Option (List Byte) :=
  if pd.length > c.maxPayload then none else some (encode c (dataFrame (chooseForm pd) dir pd))

/-- R75: the number of bytes of the frame that begins with `b`, from its first bytes; `none` when `b` is too short to tell or
does not begin with the envelope. -/
def frameTotalLen (c : Params) (b : List Byte) : Option Nat :=
  match b with
  | p :: q :: r :: s0 :: s1 :: rest =>
    if p = 0x00 ∧ q = 0x00 ∧ r = 0xFF then
      if s0 = 0x00 ∧ s1 = 0xFF then some 6
      else if s0 = 0xFF ∧ s1 = 0xFF then
        match rest with
        | lenm :: tail =>
          if lenm = 0x00 then some 6
          else
            match tail with
            | lenl :: _ => some (9 + extLcsSize c.extLcsRule + be16 lenm lenl)
            | [] => none
        | [] => none
      else some (7 + s0.toNat)
    else none
  | _ => none

/-! ### Legal parameters (R7, R8) -/

/-- R8 (c): a byte of an encoder output that is no checksum byte. `k` is how many bytes the length checksum has; a Normal
frame has its length checksum at 4, an Extended frame at 7, and both their data checksum two bytes before the end. -/
def isChecksumOffset (form : Form) (k total i : Nat) : Bool :=
  match form with
  | .normal => decide (i = 4) || decide (i + 2 = total)
  | .extended => (decide (7 ≤ i) && decide (i < 7 + k)) || decide (i + 2 = total)

/-- R8 (c): `seq` differs from the encoder output `f` of that form in its length (entry 20) or in a byte that is no checksum
byte. -/
def DiffersOffChecksums (form : Form) (k : Nat) (f seq : List Byte) : Prop :=
  seq.length ≠ f.length ∨ ∃ i, i < f.length ∧ isChecksumOffset form k f.length i = false ∧ seq[i]? ≠ f[i]?

/-- R8 (a) to (c) for one fixed sequence. -/
def FixedSequenceLegal (c : Params) (seq : List Byte) : Prop :=
  (∃ mid, seq = envelopeBytes ++ mid ++ [postamble]) ∧
  (∀ i, genericParse c seq ≠ .ok i) ∧
  (∀ dir pd, pd.length ≤ 254 → DiffersOffChecksums .normal 1 (normalBytes dir pd) seq) ∧
  (∀ dir pd, 255 ≤ pd.length → pd.length ≤ 65534 →
    DiffersOffChecksums .extended (extLcsSize c.extLcsRule) (extendedBytes c dir pd) seq)

/-- R7, R8: the parameters are legal: the three fixed sequences are and differ pairwise, the status index is one of
`ERROR_BYTES`, and `MAX_PAYLOAD` is at most 65534. -/
def Params.Legal (c : Params) : Prop :=
  FixedSequenceLegal c ackBytes ∧ FixedSequenceLegal c nackBytes ∧ FixedSequenceLegal c c.errorBytes ∧
  c.errorBytes ≠ ackBytes ∧ c.errorBytes ≠ nackBytes ∧
  c.errorStatusIndex < c.errorBytes.length ∧ c.maxPayload ≤ 65534

/-! ### One word of the opcode table -/

/-- The first bytes of an instruction given as a number whose bits count from the first byte's bit 0. -/
def numeralBytes (nbits w : Nat) : List Byte := (List.range ((nbits + 7) / 8)).map fun k => BitVec.ofNat 8 (w >>> (8 * k))

/-- The frame that a table word stands for: its bytes, and zeros up to the length its own first bytes declare (R75;
DESIGN CHOICE, entry 17). -/
def tableFrame (nbits w : Nat) : List Byte :=
  let first := numeralBytes nbits w
  let total := (frameTotalLen Config.hardware (first ++ List.replicate 7 0x00)).getD 0
  first ++ List.replicate (total - first.length) 0x00

/-- The form this decoder reads from a table word; `none` where it rejects. -/
def decodeTableWord (nbits w : Nat) : Option Instr :=
  match decodeFrame Config.hardware (tableFrame nbits w) with
  | .ok i => some i
  | .error _ => none

end Sys2Proof
end

