-- ==== Sys2Proof/Machine/State.lean ====
section
/-! DEFINITION. The block's ports and buffers as plain data (10_state.md R22 to R28, 20_memory.md R40), the host's actions
that are still to come, the reasons a step can stop, and the state after reset (R33). -/

namespace Sys2Proof.Machine

/-- One buffer: cells (index, byte), strictly rising by index. An index with no cell holds no byte that anything wrote. -/
abbrev Memory := List Host.Cell

/-- R23: `ENC_STATUS`. -/
inductive EncStatus where
  | idle
  | done
  | refused
  deriving DecidableEq, Repr, Inhabited

/-- R26, R27: `DEC_KIND`; `none` is the spec's own `None`. -/
inductive DecKind where
  | none
  | normal
  | extended
  | ack
  | nack
  | errorFrame
  deriving DecidableEq, Repr, Inhabited

/-- R26, R161: `DEC_ERR`; `none` is the spec's own `None`. -/
inductive DecErr where
  | none
  | raised (name : ErrorName)
  deriving DecidableEq, Repr, Inhabited

/-- R28, R150: `EVT`; `none` is the spec's own `None`. -/
inductive Evt where
  | none
  | acknowledged
  | resendRequested
  | errorFrameReceived
  | data
  | rejected
  deriving DecidableEq, Repr, Inhabited

/-- R28, R156: `EVT_CLASS`. -/
inductive EvtClass where
  | noError
  | transportLevel
  | framingLevel
  | protocolSemantic
  deriving DecidableEq, Repr, Inhabited

/-- R21, R100, R103, R104, R120, R150: the operations the host can start. -/
inductive Operation where
  | encode
  | encAck
  | encNack
  | decode
  | dispatch
  deriving DecidableEq, Repr, Inhabited

/-- R22, R24, R158: what the host does to the block: it writes operand ports and starts operations. A write of bytes stores
them at consecutive indices from `start`. -/
inductive HostAction where
  | setEncDir (dir : Direction)
  | writeTxp (start : Nat) (bytes : List Byte)
  | setTxpLen (n : BitVec 17)
  | writeRxf (start : Nat) (bytes : List Byte)
  | setRxfLen (n : Nat)
  | start (op : Operation)
  deriving DecidableEq, Repr, Inhabited

/-- Why the machine stops with a fault. -/
inductive Fault where
  /-- Raised by a host write to an index of `TXP` that 17 bits cannot hold (R41: "An index needs 17 bits"). SAFE: the
  machine stops, and nothing is claimed of such a write. -/
  | noSuchIndex
  deriving DecidableEq, Repr

/-- Why an instruction has no meaning. -/
inductive Refusal where
  /-- Raised only by an arm of `exec` whose instruction has no meaning yet. SAFE: nothing is claimed of it. -/
  | notModelled (mnemonic : String)
  /-- Raised by `exec` when the host has started no operation (R21). SAFE: no step calls it so. -/
  | noOperation
  /-- Raised by `exec` when the started encoder operation is not one that emits the form (R100, R103 to R105). SAFE: no step
  calls it so. -/
  | notEmitted
  /-- Raised by `exec` for a payload length the form cannot carry (R101, R102 operands). SAFE: no step calls it so. -/
  | badPayloadLength
  /-- Raised by DISPATCH when the ports hold both a frame and an error, which is no decode result (R26, R134, R150). SAFE:
  the machine stops, and no run from reset holds such ports. -/
  | noDecodeResult
  deriving DecidableEq, Repr

/-- All the state of the block (INVENTORY.md, "## State"), and `pending`. -/
structure State where
  /-- R22 `ENC_DIR`. -/
  encDir : Direction
  /-- R22, R40 `TXP`. -/
  txp : Memory
  /-- R22 `TXP_LEN`. -/
  txpLen : BitVec 17
  /-- R23, R40 `TXF`. -/
  txf : Memory
  /-- R23 `TXF_LEN`. -/
  txfLen : BitVec 17
  /-- R23 `ENC_STATUS`. -/
  encStatus : EncStatus
  /-- R24, R40 `RXF`. -/
  rxf : Memory
  /-- R24 `RXF_LEN`, an unbounded natural number. -/
  rxfLen : Nat
  /-- R26 `DEC_KIND`. -/
  decKind : DecKind
  /-- R26 `DEC_DIR`. -/
  decDir : Direction
  /-- R26, R40 `RXP`. -/
  rxp : Memory
  /-- R26 `RXP_LEN`. -/
  rxpLen : BitVec 16
  /-- R26 `DEC_STATUS`. -/
  decStatus : Byte
  /-- R26 `DEC_ERR`. -/
  decErr : DecErr
  /-- R26, R162 `DEC_ERR_INFO`. -/
  decErrInfo : ErrorInfo
  /-- R28 `EVT`. -/
  evt : Evt
  /-- R28 `EVT_STATUS`. -/
  evtStatus : Byte
  /-- R28 `EVT_CLASS`. -/
  evtClass : EvtClass
  /-- The model's own field (DESIGN CHOICE, entry 2): what the host does next, the first element first. -/
  pending : List HostAction
  deriving DecidableEq, Repr

/-- R33, R181: the state after reset. Status ports read `Idle`, `None`, `NoError`, length ports 0. The ports that R33 leaves
unspecified hold the free values of Config (entry 5), and no buffer has a written byte (entry 6). The host has done nothing yet. -/
def State.reset : State where
  encDir := Config.resetEncDir
  txp := []
  txpLen := 0
  txf := []
  txfLen := 0
  encStatus := .idle
  rxf := []
  rxfLen := 0
  decKind := .none
  decDir := Config.resetDecDir
  rxp := []
  rxpLen := 0
  decStatus := Config.resetDecStatus
  decErr := .none
  decErrInfo := Config.resetDecErrInfo
  evt := .none
  evtStatus := Config.resetEvtStatus
  evtClass := .noError
  pending := []

end Sys2Proof.Machine
end

