-- ==== Sys2Proof/Machine/Ops.lean ====
section
/-! DEFINITION. The named operations over the buffers and ports: reading and writing cells, `emit` (20_memory.md R48), what an
encoder, a recognised frame and an error write (41_encode.md R100 to R104, 42_decode.md R134, 60_exceptions.md R168), and the
host's actions (10_state.md R22, R24). -/

namespace Sys2Proof.Machine

/-! ### Buffers -/

/-- The byte written at index `a`; `none` where nothing has been written. -/
def Memory.read : Memory → Nat → Option Byte
  | [], _ => none
  | cell :: m, a => if cell.1 = a then some cell.2 else Memory.read m a

/-- The cells of a byte string stored from index `a` on. -/
def Memory.cellsFrom : Nat → List Byte → Memory
  | _, [] => []
  | a, v :: vs => (a, v) :: Memory.cellsFrom (a + 1) vs

/-- A byte string stored at the indices from `a` on; every other index keeps what it holds. -/
def Memory.writeRun (m : Memory) (a : Nat) (vs : List Byte) : Memory :=
  m.filter (fun cell => decide (cell.1 < a)) ++ Memory.cellsFrom a vs ++
    m.filter (fun cell => decide (a + vs.length ≤ cell.1))

/-- One byte stored at index `a` (R46: every access moves one byte). -/
def Memory.write (m : Memory) (a : Nat) (v : Byte) : Memory := m.writeRun a [v]

/-- The canonical form: indices strictly rising. (An unlisted index reads as no byte, which no cell holds.) -/
abbrev Memory.wf (m : Memory) : Prop := m.Pairwise fun x y => x.1 < y.1

/-- The byte an operation finds at index `a` of a buffer: the written one, else the free value of Config (R33, U9). -/
def Memory.get (space : Space) (m : Memory) (a : Nat) : Byte := (m.read a).getD (Config.unwrittenByte space a)

/-- The first `n` bytes of a buffer, as an operation finds them. -/
def Memory.prefixBytes (space : Space) (m : Memory) (n : Nat) : List Byte := (List.range n).map (Memory.get space m)

/-- The buffer of a space. -/
def State.buffer (s : State) : Space → Memory
  | .txp => s.txp
  | .txf => s.txf
  | .rxf => s.rxf
  | .rxp => s.rxp

/-- R22: the payload operand, `TXP[0 .. TXP_LEN-1]`. -/
def State.txPayload (s : State) : List Byte := Memory.prefixBytes .txp s.txp s.txpLen.toNat

/-- R23: the emitted frame, `TXF[0 .. TXF_LEN-1]`; a result buffer is read up to its length only (U9, entry 7). -/
def State.txFrame (s : State) : List Byte := Memory.prefixBytes .txf s.txf s.txfLen.toNat

/-- R24: the frame operand, `RXF[0 .. RXF_LEN-1]`. -/
def State.rxFrame (s : State) : List Byte := Memory.prefixBytes .rxf s.rxf s.rxfLen

/-- R26: the decoded payload, `RXP[0 .. RXP_LEN-1]`. -/
def State.rxPayload (s : State) : List Byte := Memory.prefixBytes .rxp s.rxp s.rxpLen.toNat

/-! ### What the encoder writes -/

/-- R48: `emit_all`, a byte string appended at `TXF_LEN`. -/
def State.emitAll (s : State) (vs : List Byte) : State :=
  { s with txf := s.txf.writeRun s.txfLen.toNat vs, txfLen := s.txfLen + BitVec.ofNat 17 vs.length }

/-- R48: `emit`, one byte appended at `TXF_LEN`. -/
def State.emit (s : State) (v : Byte) : State :=
  { s with txf := s.txf.write s.txfLen.toNat v, txfLen := s.txfLen + 1 }

/-- R100, R103, R104: `TXF_LEN <- 0`, the frame emitted, `ENC_STATUS <- Done`. -/
def State.emitFrame (s : State) (frame : List Byte) : State :=
  { State.emitAll { s with txfLen := 0 } frame with encStatus := .done }

/-- R100, R174: the refusal of ENCODE, `TXF_LEN <- 0` and `ENC_STATUS <- Refused`. -/
def State.refuseEncode (s : State) : State := { s with txfLen := 0, encStatus := .refused }

/-! ### What DECODE writes (R134, R168); a port it does not write keeps its value (entry 18) -/

/-- R134: `return` of a frame with no payload. -/
def State.returnFixed (s : State) (kind : DecKind) : State := { s with decKind := kind, decErr := .none, rxpLen := 0 }

/-- R134: `return` of an error frame, with its status. -/
def State.returnErrorFrame (s : State) (status : Byte) : State :=
  { s.returnFixed .errorFrame with decStatus := status }

/-- R134, R48: `return` of a Normal or Extended frame: its direction, and the payload copied to `RXP`. -/
def State.returnData (s : State) (kind : DecKind) (dir : Direction) (pd : List Byte) : State :=
  { s with decKind := kind, decErr := .none, decDir := dir, rxp := s.rxp.writeRun 0 pd, rxpLen := BitVec.ofNat 16 pd.length }

/-- R161: the name of an error value. -/
def errorName : ProtocolError → ErrorName
  | .checksumMismatch _ _ _ _ => .checksumMismatch
  | .framingError _ _ _ => .framingError
  | .timeout => .timeout
  | .unexpectedFrameKind => .unexpectedFrameKind
  | .errorFrameReceived _ => .errorFrameReceived
  | .shortRead _ _ => .shortRead
  | .unknownOpcode => .unknownOpcode
  | .statusFlagError _ => .statusFlagError

/-- R162: the information fields of an error value, for the three errors that have them. -/
def errorInfo : ProtocolError → Option ErrorInfo
  | .checksumMismatch field expected actual position => some (.checksum field expected actual position)
  | .framingError reason position offender => some (.framing reason position offender)
  | .shortRead position avail => some (.short position avail)
  | .timeout => none
  | .unexpectedFrameKind => none
  | .errorFrameReceived _ => none
  | .unknownOpcode => none
  | .statusFlagError _ => none

/-- R168: what an error writes, and nothing else: this is the block's "trap entry" (60_exceptions.md, section 4). There is
nothing to return from or to restore (R170). -/
def State.raiseError (s : State) (e : ProtocolError) : State :=
  { s with decKind := .none, decErr := .raised (errorName e), decErrInfo := (errorInfo e).getD s.decErrInfo, rxpLen := 0 }

/-! ### Operations and the host -/

/-- The operation the host starts with its next action, if that is what it does next. -/
def State.started (s : State) : Option Operation :=
  match s.pending with
  | .start op :: _ => some op
  | _ => none

/-- What the started operation does with a form: emit it if `emits` is that operation, write the result of recognising it
(DECODE), or report it (DISPATCH). `ok` says that the form's payload has a length the form can carry. -/
def State.perform (s : State) (emits : Option Operation) (ok : Bool) (emitted received reported : State) :
    Host.Outcome State Fault Refusal :=
  match s.started with
  | none => .refused .noOperation
  | some .decode => if ok then .next received else .refused .badPayloadLength
  | some .dispatch => .next reported
  | some op =>
    if emits = some op then if ok then .next emitted else .refused .badPayloadLength
    else .refused .notEmitted

/-- R22, R24: a host action that writes an operand port; `start` writes none. -/
def State.hostWrite (s : State) (action : HostAction) : Host.Outcome State Fault Refusal :=
  match action with
  | .setEncDir dir => .next { s with encDir := dir }
  | .writeTxp start bytes =>
    if start + bytes.length ≤ 2 ^ 17 then .next { s with txp := s.txp.writeRun start bytes } else .fault .noSuchIndex
  | .setTxpLen n => .next { s with txpLen := n }
  | .writeRxf start bytes => .next { s with rxf := s.rxf.writeRun start bytes }
  | .setRxfLen n => .next { s with rxfLen := n }
  | .start _ => .next s

/-- An action of the host is over: `rest` is what it does after it. -/
def retire (rest : List HostAction) (o : Host.Outcome State Fault Refusal) : Host.Outcome State Fault Refusal :=
  match o with
  | .next t => .next { t with pending := rest }
  | .fault r => .fault r
  | .refused r => .refused r

end Sys2Proof.Machine
end

