-- ==== Sys2Proof/Machine/Flags.lean ====
section
/-! DEFINITION. The block's status values: the numeric codes of the enumerated ports (10_state.md R23, R27, R28;
60_exceptions.md R161, R162, R164), the events and `dispatch` (43_dispatch.md R150), the error-type dispatcher `class_of`
(R156), and what DISPATCH writes. -/

namespace Sys2Proof.Machine

/-! ### Codes (D12) -/

/-- R27: `ENC_DIR`, `DEC_DIR`. -/
def directionCode : Direction → BitVec 1
  | .h2c => 0
  | .c2h => 1

/-- R23: `ENC_STATUS`. -/
def encStatusCode : EncStatus → BitVec 2
  | .idle => 0
  | .done => 1
  | .refused => 2

/-- R27: `DEC_KIND`; 6 and 7 are never written. -/
def decKindCode : DecKind → BitVec 3
  | .none => 0
  | .normal => 1
  | .extended => 2
  | .ack => 3
  | .nack => 4
  | .errorFrame => 5

/-- R161: the codes of the error names. -/
def errorNameCode : ErrorName → BitVec 4
  | .checksumMismatch => 1
  | .framingError => 2
  | .timeout => 3
  | .unexpectedFrameKind => 4
  | .errorFrameReceived => 5
  | .shortRead => 6
  | .unknownOpcode => 7
  | .statusFlagError => 8

/-- R161: `DEC_ERR`. -/
def decErrCode : DecErr → BitVec 4
  | .none => 0
  | .raised name => errorNameCode name

/-- R28: `EVT`. -/
def evtCode : Evt → BitVec 3
  | .none => 0
  | .acknowledged => 1
  | .resendRequested => 2
  | .errorFrameReceived => 3
  | .data => 4
  | .rejected => 5

/-- R28: `EVT_CLASS`. -/
def evtClassCode : EvtClass → BitVec 2
  | .noError => 0
  | .transportLevel => 1
  | .framingLevel => 2
  | .protocolSemantic => 3

/-- R162: the code of a checksum field; the spec gives it no width. -/
def checksumFieldCode : ChecksumField → Nat
  | .lcs => 1
  | .lcs16 => 2
  | .dcs => 3

/-- R164: the code of a reason; the spec gives it no width. -/
def framingReasonCode : FramingReason → Nat
  | .badPreamble => 1
  | .badStartCode => 2
  | .zeroLength => 3
  | .nonCanonicalLength => 4
  | .badTFI => 5
  | .badPostamble => 6
  | .trailingBytes => 7

/-! ### The error-type dispatcher (R156) -/

/-- R156, R171: the Transport's own errors. -/
inductive TransportError where
  | ioError
  | timeoutError
  | openError
  deriving DecidableEq, Repr

/-- R156: every error name the source sorts. -/
inductive HandledError where
  | transport (e : TransportError)
  | protocol (e : ErrorName)
  | idmMismatch
  deriving DecidableEq, Repr

/-- R156: `class_of`, total on every error name of the source. -/
def classOf : HandledError → EvtClass
  | .transport .ioError => .transportLevel
  | .transport .timeoutError => .transportLevel
  | .transport .openError => .transportLevel
  | .protocol .timeout => .transportLevel
  | .protocol .checksumMismatch => .framingLevel
  | .protocol .framingError => .framingLevel
  | .protocol .unexpectedFrameKind => .framingLevel
  | .protocol .shortRead => .framingLevel
  | .protocol .errorFrameReceived => .protocolSemantic
  | .protocol .unknownOpcode => .protocolSemantic
  | .idmMismatch => .protocolSemantic
  | .protocol .statusFlagError => .protocolSemantic

/-! ### Events (R150) -/

/-- R150: the events. -/
inductive Event where
  | acknowledged
  | resendRequested
  | errorFrameReceived (status : Byte)
  | data (dir : Direction) (pd : List Byte)
  | rejected (err : ProtocolError)
  deriving DecidableEq, Repr

/-- R151 to R154: the event of a frame. -/
def eventOfFrame : Instr → Event
  | .ack => .acknowledged
  | .nack => .resendRequested
  | .error status => .errorFrameReceived status
  | .extendedH2C pd => .data .h2c pd
  | .extendedC2H pd => .data .c2h pd
  | .normalH2C pd => .data .h2c pd
  | .normalC2H pd => .data .c2h pd

/-- R150: `dispatch` as a pure function, total on decode results. -/
def dispatchResult : Except ProtocolError Instr → Event
  | .ok frame => eventOfFrame frame
  | .error e => .rejected e

/-- R150: the tag of an event, as `EVT` holds it. -/
def eventTag : Event → Evt
  | .acknowledged => .acknowledged
  | .resendRequested => .resendRequested
  | .errorFrameReceived _ => .errorFrameReceived
  | .data _ _ => .data
  | .rejected _ => .rejected

/-- R150, R153: the status an event carries, if any. -/
def eventStatus : Event → Option Byte
  | .errorFrameReceived status => some status
  | .acknowledged => none
  | .resendRequested => none
  | .data _ _ => none
  | .rejected _ => none

/-- R156: `class_of_event`. -/
def classOfEvent : Event → EvtClass
  | .rejected e => classOf (.protocol (errorName e))
  | .errorFrameReceived _ => .protocolSemantic
  | .acknowledged => .noError
  | .resendRequested => .noError
  | .data _ _ => .noError

/-- R150: what DISPATCH writes for an event; `EVT_STATUS` only when the event carries a status. -/
def State.announce (s : State) (ev : Event) : State :=
  { s with evt := eventTag ev, evtStatus := (eventStatus ev).getD s.evtStatus, evtClass := classOfEvent ev }

/-- R155: what DISPATCH writes for a rejection; the error itself stays in `DEC_ERR`, `DEC_ERR_INFO` (R28). -/
def State.announceRejected (s : State) (name : ErrorName) : State :=
  { s with evt := .rejected, evtClass := classOf (.protocol name) }

/-- R150: what DISPATCH writes when no DECODE has run since reset. -/
def State.announceNothing (s : State) : State := { s with evt := .none, evtClass := .noError }

end Sys2Proof.Machine
end

