-- ==== Sys2Proof/Machine/Operands.lean ====
section
/-! DEFINITION. What a started operation works on: the form that its operand ports give (41_encode.md R100, R103, R104;
42_decode.md R120; 43_dispatch.md R150), or the end of the operation where there is no form. -/

namespace Sys2Proof.Machine

/-- What an operation finds on its operand ports. -/
inductive Selected where
  /-- A form, with which `exec` goes on. -/
  | form (i : Instr)
  /-- No form: the operation ends in this state. -/
  | ends (t : State)
  /-- No decode result on the ports. -/
  | stops (r : Refusal)
  deriving DecidableEq, Repr

/-- R100: ENCODE refuses a payload longer than `MAX_PAYLOAD`, else chooses the form. -/
def selectEncode (s : State) : Selected :=
  if s.txpLen.toNat > Config.hardware.maxPayload then .ends s.refuseEncode
  else .form (dataFrame (chooseForm s.txPayload) s.encDir s.txPayload)

/-- R120: DECODE recognises a frame or raises an error. -/
def selectDecode (s : State) : Selected :=
  match decodeFrame Config.hardware s.rxFrame with
  | .ok i => .form i
  | .error e => .ends (s.raiseError e)

/-- R26: the frame the decoder's result ports hold (entry 22); `none` when `DEC_KIND` is `None`. -/
def State.heldFrame (s : State) : Option Instr :=
  match s.decKind with
  | .none => none
  | .normal => some (dataFrame .normal s.decDir s.rxPayload)
  | .extended => some (dataFrame .extended s.decDir s.rxPayload)
  | .ack => some .ack
  | .nack => some .nack
  | .errorFrame => some (.error s.decStatus)

/-- R150: DISPATCH reads the decode result on the ports. Ports that hold both a frame and an error are no decode result. -/
def selectDispatch (s : State) : Selected :=
  match s.heldFrame, s.decErr with
  | some i, .none => .form i
  | none, .raised name => .ends (s.announceRejected name)
  | none, .none => .ends s.announceNothing
  | some _, .raised _ => .stops .noDecodeResult

/-- What each operation works on. -/
def select (s : State) (op : Operation) : Selected :=
  match op with
  | .encode => selectEncode s
  | .encAck => .form .ack
  | .encNack => .form .nack
  | .decode => selectDecode s
  | .dispatch => selectDispatch s

end Sys2Proof.Machine
end

