-- ==== Sys2Proof/Machine/Extended.lean ====
section
/-! DEFINITION. The meanings of the Extended data frames: rows EXTENDED.H2C and EXTENDED.C2H. -/

namespace Sys2Proof.Machine

/-- Row EXTENDED.H2C: ENCODE emits it (R102), DECODE returns `Extended(H2C, payload)` (R128, R134), DISPATCH reports `Data`
(R154). -/
def execExtendedH2C (pd : List Byte) (s : State) : Host.Outcome State Fault Refusal :=
  s.perform (some .encode) (extendedPayloadOk pd) (s.emitFrame (extendedBytes Config.hardware .h2c pd))
    (s.returnData .extended .h2c pd) (s.announce (eventOfFrame (.extendedH2C pd)))

/-- Row EXTENDED.C2H: ENCODE emits it (R102), DECODE returns `Extended(C2H, payload)` (R128, R134), DISPATCH reports `Data`
(R154). -/
def execExtendedC2H (pd : List Byte) (s : State) : Host.Outcome State Fault Refusal :=
  s.perform (some .encode) (extendedPayloadOk pd) (s.emitFrame (extendedBytes Config.hardware .c2h pd))
    (s.returnData .extended .c2h pd) (s.announce (eventOfFrame (.extendedC2H pd)))

end Sys2Proof.Machine
end

