-- ==== Sys2Proof/Machine/Fixed.lean ====
section
/-! DEFINITION. The meanings of the fixed sequences: rows ACK, NACK and ERROR. -/

namespace Sys2Proof.Machine

/-- Row ACK: ENC.ACK emits `ACK_BYTES` (R103), DECODE returns `Ack` (R121, R134), DISPATCH reports `Acknowledged` (R151). -/
def execAck (s : State) : Host.Outcome State Fault Refusal :=
  s.perform (some .encAck) true (s.emitFrame ackBytes) (s.returnFixed .ack) (s.announce (eventOfFrame .ack))

/-- Row NACK: ENC.NACK emits `NACK_BYTES` (R104), DECODE returns `Nack` (R122, R134), DISPATCH reports `ResendRequested`
(R152). -/
def execNack (s : State) : Host.Outcome State Fault Refusal :=
  s.perform (some .encNack) true (s.emitFrame nackBytes) (s.returnFixed .nack) (s.announce (eventOfFrame .nack))

/-- Row ERROR: no operation emits it (R105), DECODE returns `ErrorFrame(status)` (R123, R134), DISPATCH reports
`ErrorFrameReceived(status)` (R153). -/
def execError (status : Byte) (s : State) : Host.Outcome State Fault Refusal :=
  s.perform none true s (s.returnErrorFrame status) (s.announce (eventOfFrame (.error status)))

end Sys2Proof.Machine
end

