-- ==== Sys2Proof/Machine/Normal.lean ====
section
/-! DEFINITION. The meanings of the Normal data frames: rows NORMAL.H2C and NORMAL.C2H. -/

namespace Sys2Proof.Machine

/-- Row NORMAL.H2C: ENCODE emits it (R101), DECODE returns `Normal(H2C, payload)` (R126, R134), DISPATCH reports `Data`
(R154). -/
def execNormalH2C (pd : List Byte) (s : State) : Host.Outcome State Fault Refusal :=
  s.perform (some .encode) (normalPayloadOk pd) (s.emitFrame (normalBytes .h2c pd)) (s.returnData .normal .h2c pd)
    (s.announce (eventOfFrame (.normalH2C pd)))

/-- Row NORMAL.C2H: ENCODE emits it (R101), DECODE returns `Normal(C2H, payload)` (R126, R134), DISPATCH reports `Data`
(R154). -/
def execNormalC2H (pd : List Byte) (s : State) : Host.Outcome State Fault Refusal :=
  s.perform (some .encode) (normalPayloadOk pd) (s.emitFrame (normalBytes .c2h pd)) (s.returnData .normal .c2h pd)
    (s.announce (eventOfFrame (.normalC2H pd)))

end Sys2Proof.Machine
end

