-- ==== Sys2Proof/Machine/Dispatch.lean ====
section
/-! DEFINITION. One arm for each form of the opcode table. What the form's arm does depends on the operation the host has
started (entry 1). -/

namespace Sys2Proof.Machine

def exec (i : Instr) (s : State) : Host.Outcome State Fault Refusal :=
  match i with
  | .ack => Sys2Proof.Machine.execAck s
  | .nack => Sys2Proof.Machine.execNack s
  | .error status => Sys2Proof.Machine.execError status s
  | .extendedH2C payload => Sys2Proof.Machine.execExtendedH2C payload s
  | .extendedC2H payload => Sys2Proof.Machine.execExtendedC2H payload s
  | .normalH2C payload => Sys2Proof.Machine.execNormalH2C payload s
  | .normalC2H payload => Sys2Proof.Machine.execNormalC2H payload s

end Sys2Proof.Machine
end

