-- ==== Sys2Proof/Machine/Step.lean ====
section
/-! DEFINITION. One step: the block takes the host's next action. Starting an operation runs it whole, as one atomic step
(10_state.md R21); with no action to come the block stays as it is (entry 2). -/

namespace Sys2Proof.Machine

def step (s : State) : Host.Outcome State Fault Refusal :=
  match s.pending with
  | [] => .next s
  | .start op :: rest =>
    match select s op with
    | .form i => retire rest (exec i s)
    | .ends t => retire rest (.next t)
    | .stops r => .refused r
  | action :: rest => retire rest (s.hostWrite action)

/-- The state in which the host has put the frame of a table word into RXF and starts DECODE next (entry 2, entry 17). -/
def State.withFetchWord (s : State) (nbits w : Nat) : State :=
  { s with
    rxf := s.rxf.writeRun 0 (tableFrame nbits w)
    rxfLen := (tableFrame nbits w).length
    pending := .start .decode :: s.pending }

end Sys2Proof.Machine
end

