-- ==== Sys2Proof/Safety.lean ====
section
/-! DEFINITION. What the claims call a coherent state: the canonical buffers, their extents (20_memory.md R41), and what each
group of result ports holds after the operation that wrote it (10_state.md R23, R26, R28). -/

namespace Sys2Proof.Machine

/-- Every buffer is in its canonical form. -/
def State.BuffersCanonical (s : State) : Prop := s.txp.wf ∧ s.txf.wf ∧ s.rxf.wf ∧ s.rxp.wf

/-- Every listed index of a buffer is below `n`. -/
def Memory.Below (m : Memory) (n : Nat) : Prop := ∀ cell ∈ m, cell.1 < n

/-- R41: `TXF` holds at most 65546 bytes and `RXP` at most 65534, and an index of `TXP` needs 17 bits. -/
def State.WithinExtents (s : State) : Prop := s.txp.Below (2 ^ 17) ∧ s.txf.Below 65546 ∧ s.rxp.Below 65534

/-- The operation that emits a form (R100, R103, R104); none emits the error frame (R105). -/
def emitterOf : Instr → Option Operation
  | .ack => some .encAck
  | .nack => some .encNack
  | .error _ => none
  | .extendedH2C _ => some .encode
  | .extendedC2H _ => some .encode
  | .normalH2C _ => some .encode
  | .normalC2H _ => some .encode

/-- The encoder's ports: with `ENC_STATUS = Done`, `TXF` holds, written byte by byte, one form that an operation emits; else
`TXF_LEN` is 0 (R23, R100). -/
def State.EncoderCoherent (s : State) : Prop :=
  match s.encStatus with
  | .done => ∃ i, i.wellFormed Config.hardware = true ∧ emitterOf i ≠ none ∧
      s.txfLen.toNat = (encode Config.hardware i).length ∧
      ∀ a, a < (encode Config.hardware i).length → s.txf.read a = (encode Config.hardware i)[a]?
  | .idle => s.txfLen = 0
  | .refused => s.txfLen = 0

/-- R162: the error whose information a record holds. -/
def infoName : ErrorInfo → ErrorName
  | .checksum _ _ _ _ => .checksumMismatch
  | .framing _ _ _ => .framingError
  | .short _ _ => .shortRead

/-- The decoder's ports: never a frame and an error at once; an error is one of the three that DECODE raises and
`DEC_ERR_INFO` has its fields (R162, R163); the payload length fits the kind (R26, R62, R63, R134); an error frame has its
status (R66); every byte of the payload is written. -/
def State.DecoderCoherent (s : State) : Prop :=
  (match s.decKind with
    | .none => s.rxpLen = 0 ∧ (s.decErr = .none ∨ s.decErr = .raised (infoName s.decErrInfo))
    | .normal => s.decErr = .none ∧ s.rxpLen.toNat ≤ 254
    | .extended => s.decErr = .none ∧ 255 ≤ s.rxpLen.toNat ∧ s.rxpLen.toNat ≤ 65534
    | .ack => s.decErr = .none ∧ s.rxpLen = 0
    | .nack => s.decErr = .none ∧ s.rxpLen = 0
    | .errorFrame => s.decErr = .none ∧ s.rxpLen = 0 ∧ s.decStatus = errorStatus Config.hardware) ∧
  ∀ a, a < s.rxpLen.toNat → s.rxp.read a ≠ none

/-- The dispatcher's ports: the class is that of the event (R156), and a reported error frame has its status (R153). -/
def State.DispatcherCoherent (s : State) : Prop :=
  match s.evt with
  | .none => s.evtClass = .noError
  | .acknowledged => s.evtClass = .noError
  | .resendRequested => s.evtClass = .noError
  | .data => s.evtClass = .noError
  | .errorFrameReceived => s.evtClass = .protocolSemantic ∧ s.evtStatus = errorStatus Config.hardware
  | .rejected => s.evtClass = .framingLevel

/-- All of it. Every state a run from reset reaches is coherent. -/
def State.Coherent (s : State) : Prop :=
  s.BuffersCanonical ∧ s.WithinExtents ∧ s.EncoderCoherent ∧ s.DecoderCoherent ∧ s.DispatcherCoherent

/-- ENCODE finds the same operands in two states: the direction and the payload bytes. -/
def SameEncoderOperands (s s' : State) : Prop := s.encDir = s'.encDir ∧ s.txPayload = s'.txPayload

/-- DECODE finds the same operand in two states: the bytes presented. -/
def SameDecoderOperands (s s' : State) : Prop := s.rxFrame = s'.rxFrame

end Sys2Proof.Machine
end

