-- ==== Sys2Proof/Certificates/Slice0/Obligations.lean ====
section
/-! DEFINITION. The statements for the provers. The first part is about the codec as pure functions, for every legal value of the
open parameters; the second about the machine, whose parameters are `Config.hardware`. -/

open Sys2Proof Sys2Proof.Machine

/-! ### The codec -/

/-- Every form that can stand on the wire decodes from its encoding (R107 (d), R135). -/
def Obligations.DecodeOfEncodeIsTheForm : Prop :=
  ∀ (c : Params) (i : Instr), c.Legal → i.wellFormed c = true → decodeFrame c (encode c i) = .ok i

/-- R135: the round trip, with the boundary between the two data forms, and the fixed forms. -/
def Obligations.DecodeRecoversEncodeOperands : Prop :=
  ∀ c : Params, c.Legal →
    (∀ (dir : Direction) (pd : List Byte), pd.length ≤ c.maxPayload →
      ∃ f, encodeFrame c dir pd = some f ∧
        decodeFrame c f = .ok (dataFrame (if pd.length ≤ 254 then .normal else .extended) dir pd)) ∧
    decodeFrame c ackBytes = .ok .ack ∧ decodeFrame c nackBytes = .ok .nack

/-- R137 (b): an accepted data frame is what the encoder makes of the decoded value, and no two byte strings decode to the
same form. -/
def Obligations.AcceptedFramesAreCanonical : Prop :=
  ∀ (c : Params) (b : List Byte),
    (∀ (form : Form) (dir : Direction) (pd : List Byte), decodeFrame c b = .ok (dataFrame form dir pd) →
      form = chooseForm pd ∧ pd.length ≤ 65534 ∧ b = encode c (dataFrame form dir pd)) ∧
    ∀ (b' : List Byte) (i : Instr), decodeFrame c b = .ok i → decodeFrame c b' = .ok i → b = b'

/-- R137 (c): the accepted byte strings are the three fixed sequences and the data frames the encoder makes. -/
def Obligations.AcceptedSetIsFixedFormsAndEncoderRange : Prop :=
  ∀ (c : Params) (b : List Byte), c.Legal →
    ((∃ i, decodeFrame c b = .ok i) ↔
      b = ackBytes ∨ b = nackBytes ∨ b = c.errorBytes ∨
        ∃ (dir : Direction) (pd : List Byte), pd.length ≤ 65534 ∧ b = encode c (dataFrame (chooseForm pd) dir pd))

/-- R136, first half, for every legal value of the parameters: one flipped bit of a checksum byte of a data frame is a
checksum mismatch in the field that byte belongs to. -/
def Obligations.FlippedChecksumBitIsMismatch : Prop :=
  ∀ (c : Params) (dir : Direction) (pd : List Byte) (at_ bit : Nat) (v : Byte), c.Legal → pd.length ≤ 65534 → bit < 8 →
    let f := encode c (dataFrame (chooseForm pd) dir pd)
    f[at_]? = some v → isChecksumOffset (chooseForm pd) (extLcsSize c.extLcsRule) f.length at_ = true →
    ∃ expected actual position, decodeFrame c (f.set at_ (v ^^^ BitVec.twoPow 8 bit)) =
      .error (.checksumMismatch
        (if at_ + 2 = f.length then .dcs else if chooseForm pd = .normal then .lcs else .lcs16) expected actual position)

/-- R136, with the inference of its last sentences, on this hardware's parameters (entries 3 and 4): one flipped bit anywhere in a data frame is a checksum mismatch or a framing error,
never a frame and never a short read; in a checksum byte it is the mismatch of that byte's field. -/
def Obligations.AnyFlippedBitIsRejected : Prop :=
  ∀ (dir : Direction) (pd : List Byte) (at_ bit : Nat) (v : Byte), pd.length ≤ 65534 → bit < 8 →
    let f := encode Config.hardware (dataFrame (chooseForm pd) dir pd)
    f[at_]? = some v →
    ∃ e, decodeFrame Config.hardware (f.set at_ (v ^^^ BitVec.twoPow 8 bit)) = .error e ∧
      (errorName e = .checksumMismatch ∨ errorName e = .framingError) ∧
      (isChecksumOffset (chooseForm pd) 2 f.length at_ = true →
        ∃ expected actual position, e = .checksumMismatch
          (if at_ + 2 = f.length then .dcs else if chooseForm pd = .normal then .lcs else .lcs16) expected actual position)

/-- R96: the sums over the bytes of an encoded frame: length and length checksum, and TFI, payload and data checksum. -/
def Obligations.EncodedFramesSumToZero : Prop :=
  ∀ (c : Params) (dir : Direction) (pd : List Byte), pd.length ≤ 65534 →
    match chooseForm pd with
    | .normal =>
      let f := encode c (dataFrame .normal dir pd)
      ∃ len cks tfi d, f[3]? = some len ∧ f[4]? = some cks ∧ f[5]? = some tfi ∧ f[f.length - 2]? = some d ∧
        (len.toNat + cks.toNat) % 256 = 0 ∧
        (tfi.toNat + byteSum ((f.drop 6).take (f.length - 8)) + d.toNat) % 256 = 0
    | .extended =>
      let f := encode c (dataFrame .extended dir pd)
      let k := extLcsSize c.extLcsRule
      ∃ lenm lenl tfi d, f[5]? = some lenm ∧ f[6]? = some lenl ∧ f[7 + k]? = some tfi ∧ f[f.length - 2]? = some d ∧
        extLcsOk c.extLcsRule lenm lenl ((f.drop 7).take k) = true ∧
        (tfi.toNat + byteSum ((f.drop (8 + k)).take (f.length - (10 + k))) + d.toNat) % 256 = 0

/-- R107 (b), (e): different operands give different frames, and no encoder output is a fixed sequence. -/
def Obligations.EncoderIsInjectiveAndNeverFixed : Prop :=
  ∀ (c : Params) (dir : Direction) (pd f : List Byte), c.Legal → encodeFrame c dir pd = some f →
    (∀ (dir' : Direction) (pd' : List Byte), encodeFrame c dir' pd' = some f → dir' = dir ∧ pd' = pd) ∧
    f ≠ ackBytes ∧ f ≠ nackBytes ∧ f ≠ c.errorBytes

/-- R162, R163: an error of DECODE is one of three, which have information fields, and a short read is reported at the end
of the buffer. -/
def Obligations.DecoderRaisesThreeErrors : Prop :=
  ∀ (c : Params) (b : List Byte) (e : ProtocolError), decodeFrame c b = .error e →
    (errorName e = .checksumMismatch ∨ errorName e = .framingError ∨ errorName e = .shortRead) ∧ errorInfo e ≠ none ∧
    ∀ position avail, e = .shortRead position avail → position = b.length ∧ avail = b.length

/-- R124: the first three bytes, each required and then checked. -/
def Obligations.EnvelopeIsCheckedByteByByte : Prop :=
  ∀ c : Params, c.Legal →
    decodeFrame c [] = .error (.shortRead 0 0) ∧
    (∀ x rest, x ≠ 0x00 → decodeFrame c (x :: rest) = .error (.framingError .badPreamble 0 (.byte x))) ∧
    decodeFrame c [0x00] = .error (.shortRead 1 1) ∧
    (∀ x rest, x ≠ 0x00 → decodeFrame c (0x00 :: x :: rest) = .error (.framingError .badStartCode 1 (.byte x))) ∧
    decodeFrame c [0x00, 0x00] = .error (.shortRead 2 2) ∧
    (∀ x rest, x ≠ 0xFF → decodeFrame c (0x00 :: 0x00 :: x :: rest) = .error (.framingError .badStartCode 2 (.byte x)))

/-- R126, R127: in the Normal branch the length checksum is tested before anything after offset 4 is asked for, and then a
length of 0 is rejected. -/
def Obligations.NormalLengthErrorsComeFirst : Prop :=
  ∀ (c : Params) (len cks : Byte) (rest : List Byte),
    let b := envelopeBytes ++ len :: cks :: rest
    b ≠ ackBytes → b ≠ c.errorBytes → ¬ (len = 0xFF ∧ cks = 0xFF) →
      ((len.toNat + cks.toNat) % 256 ≠ 0 →
        decodeFrame c b = .error (.checksumMismatch .lcs (.byte (lcs8 len)) (.byte cks) 4)) ∧
      ((len.toNat + cks.toNat) % 256 = 0 → len = 0x00 →
        decodeFrame c b = .error (.framingError .zeroLength 3 (.byte 0x00)))

/-- R128, R129: in the Extended branch the length and its checksum are asked for byte by byte; the checksum is tested once its
bytes are there, whatever follows them, and then a length below 256 is rejected. -/
def Obligations.ExtendedLengthErrorsComeFirst : Prop :=
  ∀ c : Params,
    (∀ tail : List Byte, tail.length < 2 + extLcsSize c.extLcsRule →
      let b := envelopeBytes ++ extMark ++ tail
      b ≠ nackBytes → b ≠ c.errorBytes →
        decodeFrame c b = .error (.shortRead (5 + tail.length) (5 + tail.length))) ∧
    ∀ (lenm lenl : Byte) (cks rest : List Byte), cks.length = extLcsSize c.extLcsRule →
      let b := envelopeBytes ++ extMark ++ lenm :: lenl :: cks ++ rest
      let r := c.extLcsRule
      b ≠ c.errorBytes →
        (cks ≠ extLcs r (be16 lenm lenl) → decodeFrame c b = .error (.checksumMismatch .lcs16
          (extLcsValue r (extLcs r (be16 lenm lenl))) (extLcsValue r cks) 7)) ∧
        (cks = extLcs r (be16 lenm lenl) → be16 lenm lenl < 256 →
          decodeFrame c b = .error (.framingError .nonCanonicalLength 5 (.length (be16 lenm lenl))))

/-- R130: after a good header a byte that is no TFI is reported at its offset, whatever follows it. -/
def Obligations.BadTfiWinsOverWhatFollows : Prop :=
  ∀ (c : Params) (tfi : Byte) (rest : List Byte), tfi ≠ 0xD4 → tfi ≠ 0xD5 →
    (∀ len : Byte, len ≠ 0x00 →
      let b := envelopeBytes ++ len :: lcs8 len :: tfi :: rest
      b ≠ c.errorBytes → decodeFrame c b = .error (.framingError .badTFI 5 (.byte tfi))) ∧
    (∀ len : Nat, 256 ≤ len → len < 65536 →
      let b := envelopeBytes ++ extMark ++ hi8 len :: lo8 len :: extLcs c.extLcsRule len ++ tfi :: rest
      b ≠ c.errorBytes →
        decodeFrame c b = .error (.framingError .badTFI (7 + extLcsSize c.extLcsRule) (.byte tfi)))

/-- R132, R133: after TFI and payload the data checksum is tested, then the postamble, then the end of the buffer, each before
the next is asked for. -/
def Obligations.TailErrorsComeInOrder : Prop :=
  ∀ (c : Params) (dir : Direction) (pd rest : List Byte) (x : Byte), pd.length ≤ 65534 →
    let f := encode c (dataFrame (chooseForm pd) dir pd)
    let n := f.length
    let body := f.take (n - 2)
    let d := dcs (tfiOf dir) pd
    (x ≠ d → body ++ x :: rest ≠ c.errorBytes →
      decodeFrame c (body ++ x :: rest) = .error (.checksumMismatch .dcs (.byte d) (.byte x) (n - 2))) ∧
    (x ≠ 0x00 → body ++ d :: x :: rest ≠ c.errorBytes →
      decodeFrame c (body ++ d :: x :: rest) = .error (.framingError .badPostamble (n - 1) (.byte x))) ∧
    (f ++ x :: rest ≠ c.errorBytes → decodeFrame c (f ++ x :: rest) = .error (.framingError .trailingBytes n (.byte x)))

/-- R47, R166: a data frame cut off anywhere is a short read at the first missing byte. -/
def Obligations.CutOffFrameIsShortRead : Prop :=
  ∀ (c : Params) (dir : Direction) (pd : List Byte) (n : Nat), pd.length ≤ 65534 →
    let f := encode c (dataFrame (chooseForm pd) dir pd)
    n < f.length → f.take n ≠ c.errorBytes → decodeFrame c (f.take n) = .error (.shortRead n n)

/-- R95: a data checksum of 0 is accepted exactly when the bytes sum to 0, and is never taken for no checksum. -/
def Obligations.ZeroDataChecksumIsOrdinary : Prop :=
  ∀ (c : Params) (dir : Direction) (pd : List Byte), c.Legal → pd.length ≤ 254 →
    let b := envelopeBytes ++ [BitVec.ofNat 8 (1 + pd.length), lcs8 (BitVec.ofNat 8 (1 + pd.length))] ++ [tfiOf dir] ++ pd ++
      [0x00, 0x00]
    ((tfiOf dir).toNat + byteSum pd) % 256 = 0 ∧ decodeFrame c b = .ok (dataFrame .normal dir pd) ∨
    ((tfiOf dir).toNat + byteSum pd) % 256 ≠ 0 ∧
      decodeFrame c b = .error (.checksumMismatch .dcs (.byte (dcs (tfiOf dir) pd)) (.byte 0x00) (6 + pd.length))

/-- R75: the first bytes of a frame tell its length, whatever stands after it on the wire; the error frame is that of entry 3. -/
def Obligations.FrameLengthIsToldByItsFirstBytes : Prop :=
  (∀ (c : Params) (i : Instr) (rest : List Byte), i.wellFormed c = true → emitterOf i ≠ none →
    frameTotalLen c (encode c i ++ rest) = some (encode c i).length) ∧
  ∀ rest : List Byte, frameTotalLen Config.hardware (Config.hardware.errorBytes ++ rest) = some 8

/-- R97: for each length exactly one length checksum holds, and for each TFI and payload exactly one data checksum. -/
def Obligations.ExactlyOneChecksumHolds : Prop :=
  (∀ len : Byte, ∃! cks : Byte, lcsOk len cks = true) ∧
  (∀ (tfi : Byte) (pd : List Byte), ∃! d : Byte, dcsOk tfi pd d = true) ∧
  ∀ (r : ExtLcsRule) (lenm lenl : Byte), ∃! cks : List Byte, extLcsOk r lenm lenl cks = true

/-- R156: the error-type dispatcher, on every error name of the source and on every event. -/
def Obligations.ErrorsAreSortedIntoThreeClasses : Prop :=
  (∀ e : HandledError,
    (classOf e = .transportLevel ↔ e = .protocol .timeout ∨ ∃ t, e = .transport t) ∧
    (classOf e = .framingLevel ↔ e = .protocol .checksumMismatch ∨ e = .protocol .framingError ∨
      e = .protocol .unexpectedFrameKind ∨ e = .protocol .shortRead) ∧
    (classOf e = .protocolSemantic ↔ e = .protocol .errorFrameReceived ∨ e = .protocol .unknownOpcode ∨ e = .idmMismatch ∨
      e = .protocol .statusFlagError)) ∧
  ∀ ev : Event,
    (∀ e, ev = .rejected e → classOfEvent ev = classOf (.protocol (errorName e))) ∧
    (∀ status, ev = .errorFrameReceived status → classOfEvent ev = .protocolSemantic) ∧
    (ev = .acknowledged ∨ ev = .resendRequested ∨ (∃ dir pd, ev = .data dir pd) → classOfEvent ev = .noError)

/-- Words of five rows, written out from their layouts, decode to the forms they stand for (R62 to R66; the error frame is
that of entry 3). -/
def Obligations.WordsOfTheTableDecode : Prop :=
  decodeFrame Config.hardware [0x00, 0x00, 0xFF, 0x00, 0xFF, 0x00] = .ok .ack ∧
  decodeFrame Config.hardware [0x00, 0x00, 0xFF, 0xFF, 0xFF, 0x00] = .ok .nack ∧
  decodeFrame Config.hardware [0x00, 0x00, 0xFF, 0x01, 0xFF, 0x7F, 0x81, 0x00] = .ok (.error 0x7F) ∧
  decodeFrame Config.hardware [0x00, 0x00, 0xFF, 0x02, 0xFE, 0xD4, 0x02, 0x2A, 0x00] = .ok (.normalH2C [0x02]) ∧
  decodeFrame Config.hardware [0x00, 0x00, 0xFF, 0x01, 0xFF, 0xD5, 0x2B, 0x00] = .ok (.normalC2H [])

/-! ### What a form does -/

/-- R103: ENC.ACK. -/
def Obligations.AckIsEmitted : Prop :=
  ∀ s : State, s.started = some .encAck →
    ∃ t, exec .ack s = .next t ∧ t.txFrame = [0x00, 0x00, 0xFF, 0x00, 0xFF, 0x00] ∧ t.txfLen = 6 ∧ t.encStatus = .done

/-- R104: ENC.NACK. -/
def Obligations.NackIsEmitted : Prop :=
  ∀ s : State, s.started = some .encNack →
    ∃ t, exec .nack s = .next t ∧ t.txFrame = [0x00, 0x00, 0xFF, 0xFF, 0xFF, 0x00] ∧ t.txfLen = 6 ∧ t.encStatus = .done

/-- R101: ENC.NORMAL in both directions. -/
def Obligations.NormalFrameIsEmitted : Prop :=
  ∀ (s : State) (pd : List Byte), s.started = some .encode → pd.length ≤ 254 →
    (∃ t, exec (.normalH2C pd) s = .next t ∧
      t.txFrame = [0x00, 0x00, 0xFF, BitVec.ofNat 8 (1 + pd.length), lcs8 (BitVec.ofNat 8 (1 + pd.length)), 0xD4] ++ pd ++
        [dcs 0xD4 pd, 0x00] ∧ t.txfLen.toNat = 8 + pd.length ∧ t.encStatus = .done) ∧
    ∃ t, exec (.normalC2H pd) s = .next t ∧
      t.txFrame = [0x00, 0x00, 0xFF, BitVec.ofNat 8 (1 + pd.length), lcs8 (BitVec.ofNat 8 (1 + pd.length)), 0xD5] ++ pd ++
        [dcs 0xD5 pd, 0x00] ∧ t.txfLen.toNat = 8 + pd.length ∧ t.encStatus = .done

/-- R102, with the length checksum that this hardware takes (`sum16`; the spec's decision D3, entry 4). -/
def Obligations.ExtendedFrameIsEmitted : Prop :=
  ∀ (s : State) (pd : List Byte), s.started = some .encode → 255 ≤ pd.length → pd.length ≤ 65534 →
    (∃ t, exec (.extendedH2C pd) s = .next t ∧
      t.txFrame = [0x00, 0x00, 0xFF, 0xFF, 0xFF, hi8 (1 + pd.length), lo8 (1 + pd.length),
        hi8 (65536 - (1 + pd.length)), lo8 (65536 - (1 + pd.length)), 0xD4] ++ pd ++ [dcs 0xD4 pd, 0x00] ∧
      t.txfLen.toNat = 12 + pd.length ∧ t.encStatus = .done) ∧
    ∃ t, exec (.extendedC2H pd) s = .next t ∧
      t.txFrame = [0x00, 0x00, 0xFF, 0xFF, 0xFF, hi8 (1 + pd.length), lo8 (1 + pd.length),
        hi8 (65536 - (1 + pd.length)), lo8 (65536 - (1 + pd.length)), 0xD5] ++ pd ++ [dcs 0xD5 pd, 0x00] ∧
      t.txfLen.toNat = 12 + pd.length ∧ t.encStatus = .done

/-- R121 to R123, R134: DECODE on a fixed form. -/
def Obligations.FixedFormsAreReceived : Prop :=
  ∀ (s : State) (status : Byte), s.started = some .decode →
    exec .ack s = .next { s with decKind := .ack, decErr := .none, rxpLen := 0 } ∧
    exec .nack s = .next { s with decKind := .nack, decErr := .none, rxpLen := 0 } ∧
    exec (.error status) s = .next { s with decKind := .errorFrame, decErr := .none, rxpLen := 0, decStatus := status }

/-- R134: DECODE on a data form. -/
def Obligations.DataFormsAreReceived : Prop :=
  ∀ (s : State) (form : Form) (dir : Direction) (pd : List Byte), s.started = some .decode →
    (form = .normal → pd.length ≤ 254) → (form = .extended → 255 ≤ pd.length ∧ pd.length ≤ 65534) →
    ∃ t, exec (dataFrame form dir pd) s = .next t ∧
      t.decKind = (match form with | .normal => .normal | .extended => .extended) ∧ t.decErr = .none ∧ t.decDir = dir ∧
      t.rxPayload = pd ∧ t.rxpLen.toNat = pd.length

/-- R151 to R154, R156: DISPATCH on a fixed form. -/
def Obligations.FixedFormsAreReported : Prop :=
  ∀ (s : State) (status : Byte), s.started = some .dispatch →
    exec .ack s = .next { s with evt := .acknowledged, evtClass := .noError } ∧
    exec .nack s = .next { s with evt := .resendRequested, evtClass := .noError } ∧
    exec (.error status) s =
      .next { s with evt := .errorFrameReceived, evtStatus := status, evtClass := .protocolSemantic }

/-- R154, R156: DISPATCH on a data form, of any payload. -/
def Obligations.DataFormsAreReported : Prop :=
  ∀ (s : State) (form : Form) (dir : Direction) (pd : List Byte), s.started = some .dispatch →
    exec (dataFrame form dir pd) s = .next { s with evt := .data, evtClass := .noError }

/-- R105: no encoder operation emits the error frame: `exec` has no case for it, and no step leaves `ERROR_BYTES` (entry 3) in
TXF. That `exec` refuses by name is the model's choice (entry 11). -/
def Obligations.NoOperationEmitsTheErrorFrame : Prop :=
  ∀ (s : State) (op : Operation), s.started = some op → op = .encode ∨ op = .encAck ∨ op = .encNack →
    (∀ status, exec (.error status) s = .refused .notEmitted) ∧
    ∀ t, step s = .next t → t.encStatus = .done → t.txFrame ≠ Config.hardware.errorBytes

/-! ### What a form leaves alone -/

/-- The frame of emitting: `TXF` below the length of the form, `TXF_LEN` and `ENC_STATUS` may change, and nothing else. That
`TXF` at or above the form's length reads as before is the model's choice (entry 7; U9 lets a reader find any value there). -/
def Obligations.EmittingLeavesTheRestAlone : Prop :=
  ∀ (i : Instr) (s t : State) (op : Operation), s.started = some op → op = .encode ∨ op = .encAck ∨ op = .encNack →
    exec i s = .next t →
      t = { s with txf := t.txf, txfLen := t.txfLen, encStatus := t.encStatus } ∧
      (∀ a, (encode Config.hardware i).length ≤ a → t.txf.read a = s.txf.read a) ∧
      ∀ space, space ≠ .txf → ∀ a, (t.buffer space).read a = (s.buffer space).read a

/-- The frame of recognising a fixed form: `DEC_KIND`, `DEC_ERR`, `RXP_LEN` and, for an error frame, `DEC_STATUS` may change,
and nothing else; no byte of any buffer. -/
def Obligations.ReceivingAFixedFormLeavesTheRestAlone : Prop :=
  ∀ (i : Instr) (s t : State), s.started = some .decode → exec i s = .next t →
    (i = .ack ∨ i = .nack → t = { s with decKind := t.decKind, decErr := t.decErr, rxpLen := t.rxpLen } ∧
      ∀ space a, (t.buffer space).read a = (s.buffer space).read a) ∧
    ∀ status, i = .error status →
      t = { s with decKind := t.decKind, decErr := t.decErr, rxpLen := t.rxpLen, decStatus := t.decStatus } ∧
      ∀ space a, (t.buffer space).read a = (s.buffer space).read a

/-- The frame of recognising a data form: `DEC_KIND`, `DEC_ERR`, `DEC_DIR`, `RXP_LEN` and `RXP` below the payload's length may
change, and nothing else. That `RXP` at or above the payload's length reads as before is the model's choice (entry 7; U9 lets a
reader find any value there). -/
def Obligations.ReceivingADataFormLeavesTheRestAlone : Prop :=
  ∀ (form : Form) (dir : Direction) (pd : List Byte) (s t : State), s.started = some .decode →
    exec (dataFrame form dir pd) s = .next t →
      t = { s with decKind := t.decKind, decErr := t.decErr, decDir := t.decDir, rxp := t.rxp, rxpLen := t.rxpLen } ∧
      (∀ a, pd.length ≤ a → t.rxp.read a = s.rxp.read a) ∧
      ∀ space, space ≠ .rxp → ∀ a, (t.buffer space).read a = (s.buffer space).read a

/-- The frame of reporting: `EVT`, `EVT_CLASS` and, for an error frame, `EVT_STATUS` may change, and nothing else; no byte of
any buffer. -/
def Obligations.ReportingLeavesTheRestAlone : Prop :=
  ∀ (i : Instr) (s t : State), s.started = some .dispatch → exec i s = .next t →
    t = { s with evt := t.evt, evtStatus := t.evtStatus, evtClass := t.evtClass } ∧
    ((∀ status, i ≠ .error status) → t.evtStatus = s.evtStatus) ∧
    ∀ space a, (t.buffer space).read a = (s.buffer space).read a

/-! ### Steps -/

/-- When the host starts DECODE on a buffer that decodes to a form, the step is `exec` of that form, and the host's action is
over (the model's field `pending`, entry 2). -/
def Obligations.StepRunsTheDecodedForm : Prop :=
  ∀ (s : State) (rest : List HostAction) (i : Instr), s.pending = .start .decode :: rest →
    decodeFrame Config.hardware s.rxFrame = .ok i → step s = retire rest (exec i s)

/-- The other operations: the form that a step runs `exec` on (entry 2; for DISPATCH, entry 22). -/
def Obligations.StepRunsTheSelectedForm : Prop :=
  ∀ (s : State) (rest : List HostAction),
    (s.pending = .start .encode :: rest → s.txpLen.toNat ≤ 65534 →
      step s = retire rest (exec (dataFrame (chooseForm s.txPayload) s.encDir s.txPayload) s)) ∧
    (s.pending = .start .encAck :: rest → step s = retire rest (exec .ack s)) ∧
    (s.pending = .start .encNack :: rest → step s = retire rest (exec .nack s)) ∧
    (∀ i, s.pending = .start .dispatch :: rest → s.heldFrame = some i → s.decErr = .none →
      step s = retire rest (exec i s))

/-- R100: ENCODE, in every state: refused beyond `MAX_PAYLOAD`, else the frame that `encode_frame` gives for the operand
ports; every other port of the spec keeps its value. -/
def Obligations.EncodeOperationWritesTheFrame : Prop :=
  ∀ s : State, s.started = some .encode →
    ∃ t, step s = .next t ∧
      t = { s with txf := t.txf, txfLen := t.txfLen, encStatus := t.encStatus, pending := t.pending } ∧
      (65534 < s.txpLen.toNat → t.encStatus = .refused ∧ t.txfLen = 0 ∧ t.txf = s.txf) ∧
      (s.txpLen.toNat ≤ 65534 → t.encStatus = .done ∧
        t.txFrame = (if 1 + s.txpLen.toNat ≤ 255 then normalBytes s.encDir s.txPayload
          else extendedBytes Config.hardware s.encDir s.txPayload) ∧
        t.txfLen.toNat = t.txFrame.length ∧ encodeFrame Config.hardware s.encDir s.txPayload = some t.txFrame)

/-- R174: the refusal writes two ports and no other port of the spec. -/
def Obligations.TooLongPayloadIsRefused : Prop :=
  ∀ s : State, s.started = some .encode → 65534 < s.txpLen.toNat →
    ∃ t, step s = .next t ∧ t = { s with encStatus := .refused, txfLen := 0, pending := t.pending }

/-- R134: what DECODE writes, for every result; every other port of the spec keeps its value. -/
def Obligations.DecodeOperationWritesItsResult : Prop :=
  ∀ s : State, s.started = some .decode →
    ∃ t, step s = .next t ∧
      t = { s with decKind := t.decKind, decDir := t.decDir, rxp := t.rxp, rxpLen := t.rxpLen, decStatus := t.decStatus,
                   decErr := t.decErr, decErrInfo := t.decErrInfo, pending := t.pending } ∧
      match decodeFrame Config.hardware s.rxFrame with
      | .ok .ack => t.decKind = .ack ∧ t.decErr = .none ∧ t.rxpLen = 0 ∧ t.rxp = s.rxp
      | .ok .nack => t.decKind = .nack ∧ t.decErr = .none ∧ t.rxpLen = 0 ∧ t.rxp = s.rxp
      | .ok (.error status) =>
        t.decKind = .errorFrame ∧ t.decErr = .none ∧ t.rxpLen = 0 ∧ t.rxp = s.rxp ∧ t.decStatus = status
      | .ok (.normalH2C pd) =>
        t.decKind = .normal ∧ t.decErr = .none ∧ t.decDir = .h2c ∧ t.rxPayload = pd ∧ t.rxpLen.toNat = pd.length
      | .ok (.normalC2H pd) =>
        t.decKind = .normal ∧ t.decErr = .none ∧ t.decDir = .c2h ∧ t.rxPayload = pd ∧ t.rxpLen.toNat = pd.length
      | .ok (.extendedH2C pd) =>
        t.decKind = .extended ∧ t.decErr = .none ∧ t.decDir = .h2c ∧ t.rxPayload = pd ∧ t.rxpLen.toNat = pd.length
      | .ok (.extendedC2H pd) =>
        t.decKind = .extended ∧ t.decErr = .none ∧ t.decDir = .c2h ∧ t.rxPayload = pd ∧ t.rxpLen.toNat = pd.length
      | .error e =>
        t.decKind = .none ∧ t.decErr = .raised (errorName e) ∧ some t.decErrInfo = errorInfo e ∧ t.rxpLen = 0 ∧ t.rxp = s.rxp

/-- R168: an error writes four ports and nothing else. -/
def Obligations.ErrorWritesFourPorts : Prop :=
  ∀ (s : State) (rest : List HostAction) (e : ProtocolError), s.pending = .start .decode :: rest →
    decodeFrame Config.hardware s.rxFrame = .error e →
    ∃ info, errorInfo e = some info ∧
      step s = .next { s with decKind := .none, decErr := .raised (errorName e), decErrInfo := info, rxpLen := 0,
                              pending := rest }

/-- R150: DECODE and then DISPATCH, from every state, write the event and class that the pure functions give. -/
def Obligations.DecodeThenDispatchIsPureDispatch : Prop :=
  ∀ (s : State) (rest : List HostAction), s.pending = .start .decode :: .start .dispatch :: rest →
    ∃ t u, step s = .next t ∧ step t = .next u ∧
      let ev := dispatchResult (decodeFrame Config.hardware s.rxFrame)
      u = { t with evt := eventTag ev, evtStatus := (eventStatus ev).getD s.evtStatus, evtClass := classOfEvent ev,
                   pending := rest }

/-- R155: a rejected buffer becomes `Rejected`, framing-level, with the error unchanged and no payload byte. -/
def Obligations.RejectionIsReportedUnchanged : Prop :=
  ∀ (s : State) (rest : List HostAction) (e : ProtocolError), s.pending = .start .decode :: .start .dispatch :: rest →
    decodeFrame Config.hardware s.rxFrame = .error e →
    ∃ t u, step s = .next t ∧ step t = .next u ∧ u.evt = .rejected ∧ u.evtClass = classOf (.protocol (errorName e)) ∧
      u.evtClass = .framingLevel ∧ u.decErr = .raised (errorName e) ∧ some u.decErrInfo = errorInfo e ∧ u.rxpLen = 0

/-- R150: DISPATCH before any DECODE. -/
def Obligations.DispatchWithoutDecodeReportsNothing : Prop :=
  ∀ (s : State) (rest : List HostAction), s.pending = .start .dispatch :: rest → s.decKind = .none → s.decErr = .none →
    step s = .next { s with evt := .none, evtClass := .noError, pending := rest }

/-- R22, R24: what the host writes reaches the operand port and nothing else; a TXP index that 17 bits cannot hold faults
(entry 8). -/
def Obligations.HostWritesReachTheOperandPorts : Prop :=
  ∀ (s : State) (rest : List HostAction),
    (∀ dir, s.pending = .setEncDir dir :: rest → step s = .next { s with encDir := dir, pending := rest }) ∧
    (∀ n, s.pending = .setTxpLen n :: rest → step s = .next { s with txpLen := n, pending := rest }) ∧
    (∀ n, s.pending = .setRxfLen n :: rest → step s = .next { s with rxfLen := n, pending := rest }) ∧
    (∀ start bytes, s.pending = .writeRxf start bytes :: rest → ∃ t, step s = .next t ∧
      t = { s with rxf := t.rxf, pending := rest } ∧
      ∀ a, t.rxf.read a = if start ≤ a ∧ a < start + bytes.length then bytes[a - start]? else s.rxf.read a) ∧
    ∀ start bytes, s.pending = .writeTxp start bytes :: rest →
      (start + bytes.length ≤ 2 ^ 17 → ∃ t, step s = .next t ∧ t = { s with txp := t.txp, pending := rest } ∧
        ∀ a, t.txp.read a = if start ≤ a ∧ a < start + bytes.length then bytes[a - start]? else s.txp.read a) ∧
      (2 ^ 17 < start + bytes.length → step s = .fault .noSuchIndex)

/-- R48: emitting a byte string is emitting its bytes one by one. -/
def Obligations.EmitAllIsEmitByByte : Prop :=
  ∀ (s : State) (v : Byte) (vs : List Byte), s.txfLen.toNat + 1 < 2 ^ 17 →
    (s.emit v).txf.read s.txfLen.toNat = some v ∧ (s.emit v).txfLen.toNat = s.txfLen.toNat + 1 ∧
    (∀ a, a ≠ s.txfLen.toNat → (s.emit v).txf.read a = s.txf.read a) ∧
    s.emitAll (v :: vs) = (s.emit v).emitAll vs

/-! ### The whole machine -/

/-- R33: what reset leaves on the ports for which the spec gives a value. -/
def Obligations.ResetLeavesTheStatedValues : Prop :=
  State.reset.txpLen = 0 ∧ State.reset.txfLen = 0 ∧ State.reset.encStatus = .idle ∧ State.reset.rxfLen = 0 ∧
  State.reset.decKind = .none ∧ State.reset.rxpLen = 0 ∧ State.reset.decErr = .none ∧ State.reset.evt = .none ∧
  State.reset.evtClass = .noError

/-- The state after reset is coherent. -/
def Obligations.ResetIsCoherent : Prop := State.reset.Coherent

/-- Every step keeps the canonical form of the buffers. -/
def Obligations.StepsKeepBuffersCanonical : Prop :=
  ∀ s t : State, s.BuffersCanonical → step s = .next t → t.BuffersCanonical

/-- R41: every step keeps the buffers within their extents. -/
def Obligations.StepsKeepExtents : Prop :=
  ∀ s t : State, s.WithinExtents → step s = .next t → t.WithinExtents

/-- Every step keeps the encoder's ports coherent, so TXF always holds a whole emitted frame when ENC_STATUS is Done. -/
def Obligations.StepsKeepEncoderCoherent : Prop :=
  ∀ s t : State, s.EncoderCoherent → step s = .next t → t.EncoderCoherent

/-- R26, R134: every step keeps the decoder's ports coherent. -/
def Obligations.StepsKeepDecoderCoherent : Prop :=
  ∀ s t : State, s.DecoderCoherent → step s = .next t → t.DecoderCoherent

/-- R156: every step keeps the event and its class together. -/
def Obligations.StepsKeepDispatcherCoherent : Prop :=
  ∀ s t : State, s.DecoderCoherent → s.DispatcherCoherent → step s = .next t → t.DispatcherCoherent

/-- A coherent block never refuses, and faults only on a host write beyond TXP (entries 8 and 10). -/
def Obligations.CoherentBlockStopsOnlyOnBadHostWrite : Prop :=
  ∀ s : State, s.DecoderCoherent →
    (∃ t, step s = .next t) ∨
    (step s = .fault .noSuchIndex ∧
      ∃ start bytes rest, s.pending = .writeTxp start bytes :: rest ∧ 2 ^ 17 < start + bytes.length)

/-- The step refuses exactly when DISPATCH finds a frame and an error on the ports (entries 10 and 11). -/
def Obligations.StepRefusesOnlyWithoutDecodeResult : Prop :=
  ∀ (s : State) (r : Refusal), step s = .refused r ↔
    r = .noDecodeResult ∧ s.started = some .dispatch ∧ s.decKind ≠ .none ∧ s.decErr ≠ .none

/-- R191: ENCODE, ENC.ACK, ENC.NACK and DECODE end in every state, as the result ports then show. -/
def Obligations.OperationsAlwaysEnd : Prop :=
  ∀ (s : State) (op : Operation), s.started = some op → op ≠ .dispatch →
    ∃ t, step s = .next t ∧
      (op = .decode → (t.decKind = .none ∧ t.decErr ≠ .none ∨ t.decKind ≠ .none ∧ t.decErr = .none)) ∧
      (op ≠ .decode → t.encStatus = .done ∨ t.encStatus = .refused)

/-- Whatever a coherent block leaves in TXF with ENC_STATUS Done, the block itself decodes. -/
def Obligations.WhateverIsEmittedDecodes : Prop :=
  ∀ s t : State, s.EncoderCoherent → step s = .next t → t.encStatus = .done →
    ∃ i, decodeFrame Config.hardware t.txFrame = .ok i

/-- R106: the lengths TXF_LEN can have. -/
def Obligations.EmittedLengthsAreThoseOfTheForms : Prop :=
  ∀ s t : State, s.EncoderCoherent → step s = .next t →
    let n := t.txfLen.toNat
    (t.encStatus = .done → n = 6 ∨ (8 ≤ n ∧ n ≤ 262) ∨ (267 ≤ n ∧ n ≤ 65546)) ∧ (t.encStatus ≠ .done → n = 0)

/-- R135 on the machine: ENCODE, the frame copied to RXF by the host, DECODE: the operands come back on the result ports. -/
def Obligations.LoopbackGivesBackTheOperands : Prop :=
  ∀ (s t u : State) (rest : List HostAction), s.pending = .start .encode :: rest → s.txpLen.toNat ≤ 65534 →
    step s = .next t →
    u = { t with rxf := t.txf, rxfLen := t.txfLen.toNat, pending := .start .decode :: t.pending } →
    ∃ v, step u = .next v ∧ v.decErr = .none ∧
      v.decKind = (if s.txpLen.toNat ≤ 254 then .normal else .extended) ∧ v.decDir = s.encDir ∧
      v.rxPayload = s.txPayload ∧ v.rxpLen.toNat = s.txpLen.toNat

/-- R20, R52: ENCODE depends on its operands alone: two states, of any history, with the same operands get the same status,
length and frame bytes. -/
def Obligations.EncodeDependsOnItsOperandsAlone : Prop :=
  ∀ (s s' t t' : State) (rest rest' : List HostAction), s.pending = .start .encode :: rest →
    s'.pending = .start .encode :: rest' → SameEncoderOperands s s' → step s = .next t → step s' = .next t' →
    t.encStatus = t'.encStatus ∧ t.txfLen = t'.txfLen ∧ t.txFrame = t'.txFrame

/-- R20, R52: DECODE depends on its input bytes alone: two states, of any history, with the same input get the same result. -/
def Obligations.DecodeDependsOnItsInputAlone : Prop :=
  ∀ (s s' t t' : State) (rest rest' : List HostAction), s.pending = .start .decode :: rest →
    s'.pending = .start .decode :: rest' → SameDecoderOperands s s' → step s = .next t → step s' = .next t' →
    t.decKind = t'.decKind ∧ t.decErr = t'.decErr ∧ t.rxpLen = t'.rxpLen ∧ t.rxPayload = t'.rxPayload ∧
    (t.decKind = .normal ∨ t.decKind = .extended → t.decDir = t'.decDir) ∧
    (t.decKind = .errorFrame → t.decStatus = t'.decStatus) ∧ (t.decErr ≠ .none → t.decErrInfo = t'.decErrInfo)

/-- R20, R150: DISPATCH depends on the kind, the error and the status alone, and never on payload or direction. -/
def Obligations.DispatchIgnoresPayloadAndDirection : Prop :=
  ∀ (s s' t t' : State) (rest rest' : List HostAction), s.pending = .start .dispatch :: rest →
    s'.pending = .start .dispatch :: rest' → s.decKind = s'.decKind → s.decErr = s'.decErr →
    s.decStatus = s'.decStatus → step s = .next t → step s' = .next t' →
    t.evt = t'.evt ∧ t.evtClass = t'.evtClass ∧ (t.evt = .errorFrameReceived → t.evtStatus = t'.evtStatus)
end

