-- ==== Sys2Proof/Laws/Codec.lean ====
section
/-! SUPPORT. The laws of the codec's pure functions: byte arithmetic, checksums, the direction byte, lengths of frames, and for
each step of the decoder one lemma that says when it goes on and with what. -/

namespace Sys2Proof

/-! ### Byte arithmetic -/

theorem toNat_neg8 (x : Byte) : (neg8 x).toNat = (256 - x.toNat) % 256 := by
  simp only [neg8, BitVec.toNat_ofNat]
  omega

theorem toNat_hi8 (v : Nat) : (hi8 v).toNat = v / 256 % 256 := by
  simp only [hi8, BitVec.toNat_ofNat]
  omega

theorem toNat_lo8 (v : Nat) : (lo8 v).toNat = v % 256 := by
  simp only [lo8, BitVec.toNat_ofNat]
  omega

theorem be16_lt (a b : Byte) : be16 a b < 65536 := by
  have := a.isLt; have := b.isLt
  unfold be16; omega

/-- Splitting and joining a 16-bit value. -/
theorem be16_hi8_lo8 {v : Nat} (h : v < 65536) : be16 (hi8 v) (lo8 v) = v := by
  rw [be16, toNat_hi8, toNat_lo8]; omega

theorem hi8_be16 (a b : Byte) : hi8 (be16 a b) = a := by
  have := a.isLt; have := b.isLt
  refine BitVec.eq_of_toNat_eq ?_
  rw [toNat_hi8, be16]; omega

theorem lo8_be16 (a b : Byte) : lo8 (be16 a b) = b := by
  have := a.isLt; have := b.isLt
  refine BitVec.eq_of_toNat_eq ?_
  rw [toNat_lo8, be16]; omega

/-! ### Checksums -/

/-- R97: exactly one length checksum fits a length. -/
theorem lcsOk_iff (len cks : Byte) : lcsOk len cks = true ↔ cks = lcs8 len := by
  have := len.isLt; have := cks.isLt
  rw [lcsOk, decide_eq_true_eq, lcs8, ← BitVec.toNat_inj, toNat_neg8]
  omega

/-- R97: exactly one data checksum fits a TFI and payload. -/
theorem dcsOk_iff (tfi : Byte) (pd : List Byte) (d : Byte) : dcsOk tfi pd d = true ↔ d = dcs tfi pd := by
  have := d.isLt
  rw [dcsOk, decide_eq_true_eq, dcs, ← BitVec.toNat_inj, toNat_neg8, BitVec.toNat_ofNat]
  omega

theorem extLcsOk_iff (r : ExtLcsRule) (lenm lenl : Byte) (cks : List Byte) :
    extLcsOk r lenm lenl cks = true ↔ cks = extLcs r (be16 lenm lenl) := by
  rw [extLcsOk, decide_eq_true_eq]

@[simp] theorem length_extLcs (r : ExtLcsRule) (len : Nat) : (extLcs r len).length = extLcsSize r := by
  cases r <;> rfl

theorem extLcsSize_pos (r : ExtLcsRule) : 0 < extLcsSize r := by
  cases r <;> decide

theorem extLcsSize_le (r : ExtLcsRule) : extLcsSize r ≤ 2 := by
  cases r <;> decide

theorem byteSum_append (xs ys : List Byte) : byteSum (xs ++ ys) = byteSum xs + byteSum ys := by
  induction xs with
  | nil => simp [byteSum]
  | cons x xs ih => simp [byteSum, ih, Nat.add_assoc]

/-! ### The direction byte -/

@[simp] theorem dirOf_tfiOf (dir : Direction) : dirOf (tfiOf dir) = some dir := by
  cases dir <;> rfl

theorem dirOf_eq_some_iff (tfi : Byte) (dir : Direction) : dirOf tfi = some dir ↔ tfi = tfiOf dir := by
  refine ⟨fun h => ?_, fun h => h ▸ dirOf_tfiOf dir⟩
  unfold dirOf at h
  split at h
  · cases h; assumption
  · split at h
    · cases h; assumption
    · cases h

/-! ### Lengths -/

@[simp] theorem length_normalBytes (dir : Direction) (pd : List Byte) : (normalBytes dir pd).length = 8 + pd.length := by
  simp [normalBytes, envelopeBytes]; omega

@[simp] theorem length_extendedBytes (c : Params) (dir : Direction) (pd : List Byte) :
    (extendedBytes c dir pd).length = 10 + extLcsSize c.extLcsRule + pd.length := by
  simp [extendedBytes, envelopeBytes, extMark]; omega

/-! ### The steps of the decoder -/

/-- A sequence of steps succeeds exactly when each does. -/
theorem bind_eq_ok_iff {α β : Type} (x : Except ProtocolError α) (f : α → Except ProtocolError β) (r : β) :
    (x >>= f) = .ok r ↔ ∃ a, x = .ok a ∧ f a = .ok r := by
  cases x with
  | error e =>
    constructor
    · intro h; cases h
    · rintro ⟨_, h, _⟩; cases h
  | ok a =>
    constructor
    · exact fun h => ⟨a, rfl, h⟩
    · rintro ⟨_, h, h'⟩; cases h; exact h'

/-- A sequence of steps raises the error of the first step that raises one. -/
theorem bind_eq_error_iff {α β : Type} (x : Except ProtocolError α) (f : α → Except ProtocolError β) (e : ProtocolError) :
    (x >>= f) = .error e ↔ x = .error e ∨ ∃ a, x = .ok a ∧ f a = .error e := by
  cases x with
  | error e' =>
    constructor
    · intro h; cases h; exact Or.inl rfl
    · rintro (h | ⟨_, h, _⟩) <;> cases h; rfl
  | ok a =>
    constructor
    · exact fun h => Or.inr ⟨a, rfl, h⟩
    · rintro (h | ⟨_, h, h'⟩) <;> cases h; exact h'

@[simp] theorem ok_bind {α β : Type} (a : α) (f : α → Except ProtocolError β) :
    ((Except.ok a : Except ProtocolError α) >>= f) = f a := rfl

@[simp] theorem error_bind {α β : Type} (e : ProtocolError) (f : α → Except ProtocolError β) :
    ((Except.error e : Except ProtocolError α) >>= f) = .error e := rfl

@[simp] theorem pure_eq_ok {α : Type} (a : α) : (pure a : Except ProtocolError α) = .ok a := rfl

theorem require_eq_ok_iff (holds : Bool) (e : ProtocolError) (u : Unit) : require holds e = .ok u ↔ holds = true := by
  cases holds <;> simp [require]

theorem require_eq_error_iff (holds : Bool) (e e' : ProtocolError) :
    require holds e = .error e' ↔ holds = false ∧ e = e' := by
  cases holds <;> simp [require]

theorem getByte_eq_ok_iff (b : List Byte) (i : Nat) (v : Byte) : getByte b i = .ok v ↔ b[i]? = some v := by
  unfold getByte
  split <;> simp [*]

/-- R47: `get` raises `ShortRead` exactly beyond the end. -/
theorem getByte_eq_error_iff (b : List Byte) (i : Nat) (e : ProtocolError) :
    getByte b i = .error e ↔ b.length ≤ i ∧ e = .shortRead i b.length := by
  unfold getByte
  split <;> rename_i h
  · have := (List.getElem?_eq_some_iff.mp h).1
    simp; omega
  · simpa [eq_comm] using fun _ => List.getElem?_eq_none_iff.mp h

theorem getRun_eq_ok_iff (b : List Byte) (start n : Nat) (vs : List Byte) :
    getRun b start n = .ok vs ↔ vs = (b.drop start).take n ∧ vs.length = n := by
  unfold getRun
  dsimp only
  split <;> rename_i h
  · simp only [Except.ok.injEq]
    exact ⟨fun e => ⟨e.symm, e ▸ h⟩, fun e => e.1.symm⟩
  · simp only [reduceCtorEq, false_iff, not_and]
    rintro rfl; exact h

/-- R131: the first missing offset is the one reported. -/
theorem getRun_eq_error_iff (b : List Byte) (start n : Nat) (e : ProtocolError) :
    getRun b start n = .error e ↔
      b.length < start + n ∧ 0 < n ∧ e = .shortRead (max start b.length) b.length := by
  unfold getRun
  dsimp only
  split <;> rename_i h <;> rw [List.length_take, List.length_drop] at h
  · simp only [reduceCtorEq, false_iff]; omega
  · rw [List.length_take, List.length_drop]
    have : start + min n (b.length - start) = max start b.length := by omega
    rw [this]
    simp only [Except.error.injEq]
    exact ⟨fun e => ⟨by omega, by omega, e.symm⟩, fun e => e.2.2.symm⟩

/-- R131: reading a run is `get` at each of its offsets, in order. -/
theorem getRun_succ (b : List Byte) (start n : Nat) :
    getRun b start (n + 1) = (do
      let v ← getByte b start
      let vs ← getRun b (start + 1) n
      pure (v :: vs)) := by
  rcases Nat.lt_or_ge start b.length with h | h
  · have hd : b.drop start = b[start] :: b.drop (start + 1) := List.drop_eq_getElem_cons h
    simp only [getByte, List.getElem?_eq_getElem h, ok_bind]
    unfold getRun
    simp only [hd, List.take_succ_cons, List.length_cons, Nat.add_right_cancel_iff]
    split
    · rfl
    · simp only [error_bind]; congr 2; omega
  · have hg : getByte b start = .error (.shortRead start b.length) := by
      rw [getByte_eq_error_iff]; exact ⟨h, rfl⟩
    rw [hg, error_bind, getRun_eq_error_iff]
    exact ⟨by omega, by omega, by rw [Nat.max_eq_left h]⟩

theorem parseTfi_eq_ok_iff (b : List Byte) (base : Nat) (dir : Direction) :
    parseTfi b base = .ok dir ↔ b[base]? = some (tfiOf dir) := by
  rw [parseTfi, bind_eq_ok_iff]
  constructor
  · rintro ⟨tfi, h, h'⟩
    rw [getByte_eq_ok_iff] at h
    split at h' <;> rename_i hd
    · rw [pure_eq_ok] at h'
      cases h'
      rw [h, (dirOf_eq_some_iff tfi dir).mp hd]
    · cases h'
  · intro h
    exact ⟨tfiOf dir, (getByte_eq_ok_iff _ _ _).mpr h, by simp⟩

/-- R133: the end of a frame is as it must be. -/
theorem checkEnd_eq_ok_iff (b : List Byte) (at_ : Nat) (u : Unit) :
    checkEnd b at_ = .ok u ↔ b[at_]? = some postamble ∧ b.length = at_ + 1 := by
  rw [checkEnd, bind_eq_ok_iff]
  constructor
  · rintro ⟨p, h, h'⟩
    rw [bind_eq_ok_iff] at h'
    obtain ⟨_, h1, h2⟩ := h'
    rw [getByte_eq_ok_iff] at h
    rw [require_eq_ok_iff, beq_iff_eq] at h1
    subst h1
    refine ⟨h, ?_⟩
    have := (List.getElem?_eq_some_iff.mp h).1
    split at h2 <;> rename_i hn
    · have := List.getElem?_eq_none_iff.mp hn
      omega
    · cases h2
  · rintro ⟨h, hl⟩
    refine ⟨postamble, (getByte_eq_ok_iff _ _ _).mpr h, ?_⟩
    have : b[at_ + 1]? = none := List.getElem?_eq_none (by omega)
    simp [require, this]

/-- R124: the envelope check holds exactly on buffers that begin with the envelope. -/
theorem checkEnvelope_eq_ok_iff (b : List Byte) (u : Unit) :
    checkEnvelope b = .ok u ↔ ∃ rest, b = envelopeBytes ++ rest := by
  simp only [checkEnvelope, bind_eq_ok_iff, getByte_eq_ok_iff, require_eq_ok_iff, beq_iff_eq]
  constructor
  · rintro ⟨b0, h0, _, e0, b1, h1, _, e1, b2, h2, e2⟩
    subst e0; subst e1; subst e2
    match b, h0, h1, h2 with
    | [], h0, _, _ => cases h0
    | [_], _, h1, _ => cases h1
    | [_, _], _, _, h2 => cases h2
    | p :: q :: r :: rest, h0, h1, h2 =>
      simp only [List.getElem?_cons_zero, List.getElem?_cons_succ, Option.some.injEq] at h0 h1 h2
      exact ⟨rest, by simp [envelopeBytes, h0, h1, h2]⟩
  · rintro ⟨rest, rfl⟩
    exact ⟨0x00, rfl, (), rfl, 0x00, rfl, (), rfl, 0xFF, rfl, rfl⟩

theorem parseNormalHeader_eq_ok_iff (len cks : Byte) (h : Form × Nat × Nat) :
    parseNormalHeader len cks = .ok h ↔ cks = lcs8 len ∧ len ≠ 0x00 ∧ h = (.normal, len.toNat, 5) := by
  simp only [parseNormalHeader, bind_eq_ok_iff, require_eq_ok_iff, lcsOk_iff, bne_iff_ne, pure_eq_ok, Except.ok.injEq]
  exact ⟨fun ⟨_, h1, _, h2, h3⟩ => ⟨h1, h2, h3.symm⟩, fun ⟨h1, h2, h3⟩ => ⟨(), h1, (), h2, h3.symm⟩⟩

theorem parseExtendedHeader_eq_ok_iff (c : Params) (b : List Byte) (h : Form × Nat × Nat) :
    parseExtendedHeader c b = .ok h ↔ ∃ lenm lenl, b[5]? = some lenm ∧ b[6]? = some lenl ∧
      (b.drop 7).take (extLcsSize c.extLcsRule) = extLcs c.extLcsRule (be16 lenm lenl) ∧ 256 ≤ be16 lenm lenl ∧
      h = (.extended, be16 lenm lenl, 7 + extLcsSize c.extLcsRule) := by
  simp only [parseExtendedHeader, bind_eq_ok_iff, getByte_eq_ok_iff, getRun_eq_ok_iff, require_eq_ok_iff, extLcsOk_iff,
    decide_eq_true_eq, pure_eq_ok, Except.ok.injEq]
  constructor
  · rintro ⟨m, hm, l, hl, cks, ⟨hc, _⟩, _, hk, _, hn, e⟩
    exact ⟨m, l, hm, hl, hc ▸ hk, hn, e.symm⟩
  · rintro ⟨m, l, hm, hl, hk, hn, e⟩
    exact ⟨m, hm, l, hl, _, ⟨rfl, by rw [hk, length_extLcs]⟩, (), hk, (), hn, e.symm⟩

/-- R130 to R133: the body of a frame parses exactly when TFI, data checksum, postamble and length are as they must be. -/
theorem parseBody_eq_ok_iff (b : List Byte) (form : Form) (len base : Nat) (i : Instr) :
    parseBody b form len base = .ok i ↔ ∃ dir pd, b[base]? = some (tfiOf dir) ∧
      pd = (b.drop (base + 1)).take (len - 1) ∧ pd.length = len - 1 ∧ b[base + len]? = some (dcs (tfiOf dir) pd) ∧
      b[base + len + 1]? = some postamble ∧ b.length = base + len + 2 ∧ i = dataFrame form dir pd := by
  simp only [parseBody, bind_eq_ok_iff, parseTfi_eq_ok_iff, getRun_eq_ok_iff, getByte_eq_ok_iff, require_eq_ok_iff,
    dcsOk_iff, checkEnd_eq_ok_iff, pure_eq_ok, Except.ok.injEq]
  constructor
  · rintro ⟨dir, h1, pd, ⟨h2, h3⟩, d, h4, _, rfl, _, ⟨h5, h6⟩, e⟩
    exact ⟨dir, pd, h1, h2, h3, h4, h5, h6, e.symm⟩
  · rintro ⟨dir, pd, h1, h2, h3, h4, h5, h6, e⟩
    exact ⟨dir, h1, pd, ⟨h2, h3⟩, _, h4, (), rfl, (), ⟨h5, h6⟩, e.symm⟩

end Sys2Proof
end

