-- ==== Sys2Proof/Laws/Memory.lean ====
section
/-! SUPPORT. The laws of the buffers: what a read gives after a write, that a write keeps the canonical form, and the bytes an
operation finds where a byte string was stored. -/

namespace Sys2Proof.Machine

@[simp] theorem Memory.read_nil (a : Nat) : Memory.read [] a = none := rfl

theorem Memory.read_cons (cell : Host.Cell) (m : Memory) (a : Nat) :
    Memory.read (cell :: m) a = if cell.1 = a then some cell.2 else Memory.read m a := rfl

theorem Memory.read_append (m m' : Memory) (a : Nat) :
    Memory.read (m ++ m') a = (Memory.read m a).or (Memory.read m' a) := by
  induction m with
  | nil => simp
  | cons cell m ih => by_cases h : cell.1 = a <;> simp [Memory.read_cons, h, ih]

theorem Memory.read_filter (p : Nat → Bool) (m : Memory) (a : Nat) :
    Memory.read (m.filter fun cell => p cell.1) a = if p a then Memory.read m a else none := by
  induction m with
  | nil => simp
  | cons cell m ih =>
    by_cases h : cell.1 = a
    · subst h
      by_cases hp : p cell.1 <;> simp [hp, Memory.read_cons, ih]
    · by_cases hp : p cell.1 <;> simp [hp, Memory.read_cons, h, ih]

theorem Memory.read_cellsFrom (vs : List Byte) (a x : Nat) :
    Memory.read (Memory.cellsFrom a vs) x = if a ≤ x then vs[x - a]? else none := by
  induction vs generalizing a with
  | nil => simp [Memory.cellsFrom]
  | cons v vs ih =>
    rw [Memory.cellsFrom, Memory.read_cons, ih]
    rcases Nat.lt_trichotomy a x with h | h | h
    · have e : x - a = (x - (a + 1)) + 1 := by omega
      simp [Nat.ne_of_lt h, Nat.succ_le_of_lt h, Nat.le_of_lt h, e]
    · simp [h]
    · have : ¬ a + 1 ≤ x := by omega
      have : ¬ a ≤ x := by omega
      simp [*, (Nat.ne_of_lt h).symm]

/-- A read after a store: inside the stored indices the stored byte, elsewhere what stood there. -/
theorem Memory.read_writeRun (m : Memory) (a : Nat) (vs : List Byte) (x : Nat) :
    Memory.read (m.writeRun a vs) x = if a ≤ x ∧ x < a + vs.length then vs[x - a]? else Memory.read m x := by
  unfold Memory.writeRun
  rw [Memory.read_append, Memory.read_append, Memory.read_filter fun i => decide (i < a),
    Memory.read_filter fun i => decide (a + vs.length ≤ i), Memory.read_cellsFrom]
  rcases Nat.lt_or_ge x a with h | h
  · have h1 : ¬ a ≤ x := by omega
    have h2 : ¬ a + vs.length ≤ x := by omega
    simp [h, h1, h2]
  · have h1 : ¬ x < a := by omega
    rcases Nat.lt_or_ge x (a + vs.length) with h2 | h2
    · have h3 : ¬ a + vs.length ≤ x := by omega
      simp [h, h1, h2, h3]
    · have h3 : vs[x - a]? = none := by simp; omega
      have h4 : ¬ x < a + vs.length := by omega
      simp [h, h1, h2, h3, h4]

/-- A store leaves every index outside it alone. -/
theorem Memory.read_writeRun_outside (m : Memory) (a : Nat) (vs : List Byte) {x : Nat}
    (h : x < a ∨ a + vs.length ≤ x) : Memory.read (m.writeRun a vs) x = Memory.read m x := by
  rw [Memory.read_writeRun, if_neg (by omega)]

/-- Inside a store a read gives the stored byte. -/
theorem Memory.read_writeRun_inside (m : Memory) (a : Nat) (vs : List Byte) {k : Nat} (h : k < vs.length) :
    Memory.read (m.writeRun a vs) (a + k) = vs[k]? := by
  rw [Memory.read_writeRun, if_pos (by omega), Nat.add_sub_cancel_left]

theorem Memory.read_write (m : Memory) (a : Nat) (v : Byte) (x : Nat) :
    Memory.read (m.write a v) x = if x = a then some v else Memory.read m x := by
  rw [Memory.write, Memory.read_writeRun]
  by_cases h : x = a
  · simp [h]
  · rw [if_neg (by simp; omega), if_neg h]

theorem Memory.mem_cellsFrom {cell : Host.Cell} {vs : List Byte} {a : Nat} (h : cell ∈ Memory.cellsFrom a vs) :
    a ≤ cell.1 ∧ cell.1 < a + vs.length := by
  induction vs generalizing a with
  | nil => simp [Memory.cellsFrom] at h
  | cons v vs ih =>
    rw [Memory.cellsFrom, List.mem_cons] at h
    rcases h with rfl | h
    · simp
    · have := ih h
      simp only [List.length_cons]
      omega

theorem Memory.wf_cellsFrom (a : Nat) (vs : List Byte) : Memory.wf (Memory.cellsFrom a vs) := by
  induction vs generalizing a with
  | nil => exact List.Pairwise.nil
  | cons v vs ih =>
    refine List.Pairwise.cons (fun cell h => ?_) (ih (a + 1))
    have := Memory.mem_cellsFrom h
    simp only
    omega

/-- Every store keeps the canonical form. -/
theorem Memory.wf_writeRun {m : Memory} (h : m.wf) (a : Nat) (vs : List Byte) : (m.writeRun a vs).wf := by
  unfold Memory.writeRun Memory.wf
  rw [List.append_assoc, List.pairwise_append, List.pairwise_append]
  refine ⟨h.filter _, ⟨Memory.wf_cellsFrom a vs, h.filter _, ?_⟩, ?_⟩
  · intro x hx y hy
    have := Memory.mem_cellsFrom hx
    have := (List.mem_filter.mp hy).2
    simp only [decide_eq_true_eq] at this
    omega
  · intro x hx y hy
    have hx := (List.mem_filter.mp hx).2
    simp only [decide_eq_true_eq] at hx
    rcases List.mem_append.mp hy with hy | hy
    · have := Memory.mem_cellsFrom hy
      omega
    · have := (List.mem_filter.mp hy).2
      simp only [decide_eq_true_eq] at this
      omega

theorem Memory.wf_write {m : Memory} (h : m.wf) (a : Nat) (v : Byte) : (m.write a v).wf := Memory.wf_writeRun h a [v]

/-- The buffers after reset have the canonical form. -/
theorem Memory.wf_reset (space : Space) : (State.reset.buffer space).wf := by
  cases space <;> exact List.Pairwise.nil

/-- A store byte by byte is the store of the string: `writeRun` is repeated `write` (R46, R48). -/
theorem Memory.writeRun_cons (m : Memory) (a : Nat) (v : Byte) (vs : List Byte) :
    m.writeRun a (v :: vs) = (m.write a v).writeRun (a + 1) vs := by
  have below : (m.filter fun cell => decide (cell.1 < a)).filter (fun cell => decide (cell.1 < a + 1)) =
      m.filter fun cell => decide (cell.1 < a) := by
    refine List.filter_eq_self.mpr fun cell h => ?_
    have := (List.mem_filter.mp h).2
    simp only [decide_eq_true_eq] at this ⊢
    omega
  have belowAbove : (m.filter fun cell => decide (a + 1 ≤ cell.1)).filter (fun cell => decide (cell.1 < a + 1)) = [] := by
    refine List.filter_eq_nil_iff.mpr fun cell h => ?_
    have := (List.mem_filter.mp h).2
    simp only [decide_eq_true_eq] at this ⊢
    omega
  have aboveBelow : (m.filter fun cell => decide (cell.1 < a)).filter
      (fun cell => decide (a + 1 + vs.length ≤ cell.1)) = [] := by
    refine List.filter_eq_nil_iff.mpr fun cell h => ?_
    have := (List.mem_filter.mp h).2
    simp only [decide_eq_true_eq] at this ⊢
    omega
  have above : (m.filter fun cell => decide (a + 1 ≤ cell.1)).filter
      (fun cell => decide (a + 1 + vs.length ≤ cell.1)) = m.filter fun cell => decide (a + (vs.length + 1) ≤ cell.1) := by
    rw [List.filter_filter]
    refine List.filter_congr fun cell _ => ?_
    rw [← Bool.decide_and]
    exact decide_eq_decide.mpr (by omega)
  have here : ¬ a + 1 + vs.length ≤ a := by omega
  simp only [Memory.write, Memory.writeRun, Memory.cellsFrom, List.filter_append, List.length_cons, List.length_nil,
    Nat.zero_add, below, belowAbove, aboveBelow, above]
  simp [here]

/-! ### The bytes an operation finds -/

@[simp] theorem Memory.length_prefixBytes (space : Space) (m : Memory) (n : Nat) :
    (Memory.prefixBytes space m n).length = n := by
  simp [Memory.prefixBytes]

/-- A written byte is the byte an operation finds. -/
theorem Memory.get_of_read {space : Space} {m : Memory} {a : Nat} {v : Byte} (h : m.read a = some v) :
    Memory.get space m a = v := by
  simp [Memory.get, h]

/-- Two buffers that read alike below `n` give an operation the same `n` bytes. -/
theorem Memory.prefixBytes_congr {space : Space} {m m' : Memory} {n : Nat}
    (h : ∀ a, a < n → m.read a = m'.read a) : Memory.prefixBytes space m n = Memory.prefixBytes space m' n := by
  refine List.map_congr_left fun a ha => ?_
  rw [Memory.get, Memory.get, h a (List.mem_range.mp ha)]

/-- Where the first `n` indices hold the string `vs`, an operation finds `vs`. -/
theorem Memory.prefixBytes_eq {space : Space} {m : Memory} {vs : List Byte}
    (h : ∀ a, a < vs.length → m.read a = vs[a]?) : Memory.prefixBytes space m vs.length = vs := by
  refine List.ext_getElem? fun a => ?_
  rcases Nat.lt_or_ge a vs.length with ha | ha
  · have hr := h a ha
    rw [List.getElem?_eq_getElem ha] at hr
    simp [Memory.prefixBytes, ha, Memory.get_of_read hr]
  · rw [List.getElem?_eq_none (by simpa using ha), List.getElem?_eq_none ha]

/-- A string stored from index 0 is found whole. -/
@[simp] theorem Memory.prefixBytes_writeRun (space : Space) (m : Memory) (vs : List Byte) :
    Memory.prefixBytes space (m.writeRun 0 vs) vs.length = vs :=
  Memory.prefixBytes_eq fun a ha => by simpa using Memory.read_writeRun_inside m 0 vs ha

end Sys2Proof.Machine
end

