-- ==== Sys2Proof/Laws/Params.lean ====
section
/-! SUPPORT. The parameters of this hardware are legal: the last sentences of 00_scope.md R8. -/

namespace Sys2Proof

/-- A sequence shorter than every Extended frame and unlike every Normal frame of its length off the checksums. -/
theorem fixedSequenceLegal_of_short (c : Params) (seq mid : List Byte) (e : ProtocolError)
    (envelope : seq = envelopeBytes ++ mid ++ [postamble]) (rejected : genericParse c seq = .error e)
    (short : seq.length ≤ 8) (tfi : ∀ dir, seq[5]? ≠ some (tfiOf dir)) : FixedSequenceLegal c seq := by
  refine ⟨⟨mid, envelope⟩, fun i h => (by rw [rejected] at h; cases h), fun dir pd _ => ?_, fun dir pd h _ => Or.inl ?_⟩
  · by_cases hl : seq.length = (normalBytes dir pd).length
    · rw [length_normalBytes] at hl
      have hp : pd = [] := List.length_eq_zero_iff.mp (by omega)
      subst hp
      refine Or.inr ⟨5, by simp, by simp [isChecksumOffset], ?_⟩
      simpa [normalBytes, envelopeBytes] using tfi dir
    · exact Or.inl hl
  · rw [length_extendedBytes]; omega

theorem ackBytes_legal (c : Params) : FixedSequenceLegal c ackBytes :=
  fixedSequenceLegal_of_short c _ [0x00, 0xFF] (.checksumMismatch .lcs (.byte 0x00) (.byte 0xFF) 4) rfl rfl (by decide)
    (fun dir => by cases dir <;> decide)

theorem nackBytes_legal (c : Params) : FixedSequenceLegal c nackBytes :=
  fixedSequenceLegal_of_short c _ [0xFF, 0xFF] (.shortRead 6 6) rfl rfl (by decide) (fun dir => by cases dir <;> decide)

/-- R8: "The values of rule R6 and the default of rule R7 satisfy (a) to (d)". -/
theorem hardware_legal : Config.hardware.Legal :=
  ⟨ackBytes_legal _, nackBytes_legal _,
    fixedSequenceLegal_of_short _ _ [0x01, 0xFF, 0x7F, 0x81] (.framingError .badTFI 5 (.byte 0x7F)) rfl rfl (by decide)
      (fun dir => by cases dir <;> decide),
    by decide, by decide, by decide, by decide⟩

end Sys2Proof
end

