-- ==== Sys2Proof/Laws/PerInstr.lean ====
section
/-! SUPPORT. The per-instruction family `Envelope` (30_encoding.md R61): every form, encoded, stands between the three first
bytes and the postamble that all frames share. -/

namespace Sys2Proof.Laws.Envelope

/-- R61: under legal parameters the encoding of the form begins with `00 00 FF` and ends with `00`. -/
def Statement (i : Instr) : Prop :=
  ∀ c : Params, c.Legal → i.wellFormed c = true → ∃ mid, encode c i = envelopeBytes ++ mid ++ [postamble]

theorem ack : Statement .ack := fun _ h _ => h.1.1

theorem nack : Statement .nack := fun _ h _ => h.2.1.1

theorem error (status : Byte) : Statement (.error status) := fun _ h _ => h.2.2.1.1

/-- The bytes of an Extended frame in the shape of the statement. -/
theorem extendedBytes_envelope (c : Params) (dir : Direction) (pd : List Byte) :
    ∃ mid, extendedBytes c dir pd = envelopeBytes ++ mid ++ [postamble] :=
  ⟨extMark ++ [hi8 (1 + pd.length), lo8 (1 + pd.length)] ++ extLcs c.extLcsRule (1 + pd.length) ++ [tfiOf dir] ++ pd ++
    [dcs (tfiOf dir) pd], by simp only [extendedBytes, List.append_assoc]⟩

/-- The bytes of a Normal frame in the shape of the statement. -/
theorem normalBytes_envelope (dir : Direction) (pd : List Byte) :
    ∃ mid, normalBytes dir pd = envelopeBytes ++ mid ++ [postamble] :=
  ⟨[BitVec.ofNat 8 (1 + pd.length), lcs8 (BitVec.ofNat 8 (1 + pd.length))] ++ [tfiOf dir] ++ pd ++ [dcs (tfiOf dir) pd],
    by simp only [normalBytes, List.append_assoc]⟩

theorem extendedH2C (pd : List Byte) : Statement (.extendedH2C pd) := fun c _ _ => extendedBytes_envelope c .h2c pd

theorem extendedC2H (pd : List Byte) : Statement (.extendedC2H pd) := fun c _ _ => extendedBytes_envelope c .c2h pd

theorem normalH2C (pd : List Byte) : Statement (.normalH2C pd) := fun _ _ _ => normalBytes_envelope .h2c pd

theorem normalC2H (pd : List Byte) : Statement (.normalC2H pd) := fun _ _ _ => normalBytes_envelope .c2h pd

end Sys2Proof.Laws.Envelope
end

