-- ==== Sys2Proof/Laws/State.lean ====
section
/-! SUPPORT. For each operation that updates the state and each field of State, what the field holds after it. All hold by
definition; simp uses them, so that no later proof unfolds an update. -/

namespace Sys2Proof.Machine

/-! ### `emitAll` (R48) -/

@[simp] theorem State.emitAll_encDir (s : State) (vs : List Byte) : (s.emitAll vs).encDir = s.encDir := rfl
@[simp] theorem State.emitAll_txp (s : State) (vs : List Byte) : (s.emitAll vs).txp = s.txp := rfl
@[simp] theorem State.emitAll_txpLen (s : State) (vs : List Byte) : (s.emitAll vs).txpLen = s.txpLen := rfl
@[simp] theorem State.emitAll_txf (s : State) (vs : List Byte) : (s.emitAll vs).txf = s.txf.writeRun s.txfLen.toNat vs := rfl
@[simp] theorem State.emitAll_txfLen (s : State) (vs : List Byte) :
    (s.emitAll vs).txfLen = s.txfLen + BitVec.ofNat 17 vs.length := rfl
@[simp] theorem State.emitAll_encStatus (s : State) (vs : List Byte) : (s.emitAll vs).encStatus = s.encStatus := rfl
@[simp] theorem State.emitAll_rxf (s : State) (vs : List Byte) : (s.emitAll vs).rxf = s.rxf := rfl
@[simp] theorem State.emitAll_rxfLen (s : State) (vs : List Byte) : (s.emitAll vs).rxfLen = s.rxfLen := rfl
@[simp] theorem State.emitAll_decKind (s : State) (vs : List Byte) : (s.emitAll vs).decKind = s.decKind := rfl
@[simp] theorem State.emitAll_decDir (s : State) (vs : List Byte) : (s.emitAll vs).decDir = s.decDir := rfl
@[simp] theorem State.emitAll_rxp (s : State) (vs : List Byte) : (s.emitAll vs).rxp = s.rxp := rfl
@[simp] theorem State.emitAll_rxpLen (s : State) (vs : List Byte) : (s.emitAll vs).rxpLen = s.rxpLen := rfl
@[simp] theorem State.emitAll_decStatus (s : State) (vs : List Byte) : (s.emitAll vs).decStatus = s.decStatus := rfl
@[simp] theorem State.emitAll_decErr (s : State) (vs : List Byte) : (s.emitAll vs).decErr = s.decErr := rfl
@[simp] theorem State.emitAll_decErrInfo (s : State) (vs : List Byte) : (s.emitAll vs).decErrInfo = s.decErrInfo := rfl
@[simp] theorem State.emitAll_evt (s : State) (vs : List Byte) : (s.emitAll vs).evt = s.evt := rfl
@[simp] theorem State.emitAll_evtStatus (s : State) (vs : List Byte) : (s.emitAll vs).evtStatus = s.evtStatus := rfl
@[simp] theorem State.emitAll_evtClass (s : State) (vs : List Byte) : (s.emitAll vs).evtClass = s.evtClass := rfl
@[simp] theorem State.emitAll_pending (s : State) (vs : List Byte) : (s.emitAll vs).pending = s.pending := rfl

/-! ### `emit` (R48) -/

@[simp] theorem State.emit_encDir (s : State) (v : Byte) : (s.emit v).encDir = s.encDir := rfl
@[simp] theorem State.emit_txp (s : State) (v : Byte) : (s.emit v).txp = s.txp := rfl
@[simp] theorem State.emit_txpLen (s : State) (v : Byte) : (s.emit v).txpLen = s.txpLen := rfl
@[simp] theorem State.emit_txf (s : State) (v : Byte) : (s.emit v).txf = s.txf.write s.txfLen.toNat v := rfl
@[simp] theorem State.emit_txfLen (s : State) (v : Byte) : (s.emit v).txfLen = s.txfLen + 1 := rfl
@[simp] theorem State.emit_encStatus (s : State) (v : Byte) : (s.emit v).encStatus = s.encStatus := rfl
@[simp] theorem State.emit_rxf (s : State) (v : Byte) : (s.emit v).rxf = s.rxf := rfl
@[simp] theorem State.emit_rxfLen (s : State) (v : Byte) : (s.emit v).rxfLen = s.rxfLen := rfl
@[simp] theorem State.emit_decKind (s : State) (v : Byte) : (s.emit v).decKind = s.decKind := rfl
@[simp] theorem State.emit_decDir (s : State) (v : Byte) : (s.emit v).decDir = s.decDir := rfl
@[simp] theorem State.emit_rxp (s : State) (v : Byte) : (s.emit v).rxp = s.rxp := rfl
@[simp] theorem State.emit_rxpLen (s : State) (v : Byte) : (s.emit v).rxpLen = s.rxpLen := rfl
@[simp] theorem State.emit_decStatus (s : State) (v : Byte) : (s.emit v).decStatus = s.decStatus := rfl
@[simp] theorem State.emit_decErr (s : State) (v : Byte) : (s.emit v).decErr = s.decErr := rfl
@[simp] theorem State.emit_decErrInfo (s : State) (v : Byte) : (s.emit v).decErrInfo = s.decErrInfo := rfl
@[simp] theorem State.emit_evt (s : State) (v : Byte) : (s.emit v).evt = s.evt := rfl
@[simp] theorem State.emit_evtStatus (s : State) (v : Byte) : (s.emit v).evtStatus = s.evtStatus := rfl
@[simp] theorem State.emit_evtClass (s : State) (v : Byte) : (s.emit v).evtClass = s.evtClass := rfl
@[simp] theorem State.emit_pending (s : State) (v : Byte) : (s.emit v).pending = s.pending := rfl

/-! ### `emitFrame` (R100, R103, R104) -/

@[simp] theorem State.emitFrame_encDir (s : State) (frame : List Byte) : (s.emitFrame frame).encDir = s.encDir := rfl
@[simp] theorem State.emitFrame_txp (s : State) (frame : List Byte) : (s.emitFrame frame).txp = s.txp := rfl
@[simp] theorem State.emitFrame_txpLen (s : State) (frame : List Byte) : (s.emitFrame frame).txpLen = s.txpLen := rfl
@[simp] theorem State.emitFrame_txf (s : State) (frame : List Byte) : (s.emitFrame frame).txf = s.txf.writeRun 0 frame := rfl
@[simp] theorem State.emitFrame_txfLen (s : State) (frame : List Byte) :
    (s.emitFrame frame).txfLen = 0 + BitVec.ofNat 17 frame.length := rfl
@[simp] theorem State.emitFrame_encStatus (s : State) (frame : List Byte) : (s.emitFrame frame).encStatus = .done := rfl
@[simp] theorem State.emitFrame_rxf (s : State) (frame : List Byte) : (s.emitFrame frame).rxf = s.rxf := rfl
@[simp] theorem State.emitFrame_rxfLen (s : State) (frame : List Byte) : (s.emitFrame frame).rxfLen = s.rxfLen := rfl
@[simp] theorem State.emitFrame_decKind (s : State) (frame : List Byte) : (s.emitFrame frame).decKind = s.decKind := rfl
@[simp] theorem State.emitFrame_decDir (s : State) (frame : List Byte) : (s.emitFrame frame).decDir = s.decDir := rfl
@[simp] theorem State.emitFrame_rxp (s : State) (frame : List Byte) : (s.emitFrame frame).rxp = s.rxp := rfl
@[simp] theorem State.emitFrame_rxpLen (s : State) (frame : List Byte) : (s.emitFrame frame).rxpLen = s.rxpLen := rfl
@[simp] theorem State.emitFrame_decStatus (s : State) (frame : List Byte) : (s.emitFrame frame).decStatus = s.decStatus :=
  rfl
@[simp] theorem State.emitFrame_decErr (s : State) (frame : List Byte) : (s.emitFrame frame).decErr = s.decErr := rfl
@[simp] theorem State.emitFrame_decErrInfo (s : State) (frame : List Byte) : (s.emitFrame frame).decErrInfo = s.decErrInfo :=
  rfl
@[simp] theorem State.emitFrame_evt (s : State) (frame : List Byte) : (s.emitFrame frame).evt = s.evt := rfl
@[simp] theorem State.emitFrame_evtStatus (s : State) (frame : List Byte) : (s.emitFrame frame).evtStatus = s.evtStatus :=
  rfl
@[simp] theorem State.emitFrame_evtClass (s : State) (frame : List Byte) : (s.emitFrame frame).evtClass = s.evtClass := rfl
@[simp] theorem State.emitFrame_pending (s : State) (frame : List Byte) : (s.emitFrame frame).pending = s.pending := rfl

/-! ### `refuseEncode` (R174) -/

@[simp] theorem State.refuseEncode_encDir (s : State) : s.refuseEncode.encDir = s.encDir := rfl
@[simp] theorem State.refuseEncode_txp (s : State) : s.refuseEncode.txp = s.txp := rfl
@[simp] theorem State.refuseEncode_txpLen (s : State) : s.refuseEncode.txpLen = s.txpLen := rfl
@[simp] theorem State.refuseEncode_txf (s : State) : s.refuseEncode.txf = s.txf := rfl
@[simp] theorem State.refuseEncode_txfLen (s : State) : s.refuseEncode.txfLen = 0 := rfl
@[simp] theorem State.refuseEncode_encStatus (s : State) : s.refuseEncode.encStatus = .refused := rfl
@[simp] theorem State.refuseEncode_rxf (s : State) : s.refuseEncode.rxf = s.rxf := rfl
@[simp] theorem State.refuseEncode_rxfLen (s : State) : s.refuseEncode.rxfLen = s.rxfLen := rfl
@[simp] theorem State.refuseEncode_decKind (s : State) : s.refuseEncode.decKind = s.decKind := rfl
@[simp] theorem State.refuseEncode_decDir (s : State) : s.refuseEncode.decDir = s.decDir := rfl
@[simp] theorem State.refuseEncode_rxp (s : State) : s.refuseEncode.rxp = s.rxp := rfl
@[simp] theorem State.refuseEncode_rxpLen (s : State) : s.refuseEncode.rxpLen = s.rxpLen := rfl
@[simp] theorem State.refuseEncode_decStatus (s : State) : s.refuseEncode.decStatus = s.decStatus := rfl
@[simp] theorem State.refuseEncode_decErr (s : State) : s.refuseEncode.decErr = s.decErr := rfl
@[simp] theorem State.refuseEncode_decErrInfo (s : State) : s.refuseEncode.decErrInfo = s.decErrInfo := rfl
@[simp] theorem State.refuseEncode_evt (s : State) : s.refuseEncode.evt = s.evt := rfl
@[simp] theorem State.refuseEncode_evtStatus (s : State) : s.refuseEncode.evtStatus = s.evtStatus := rfl
@[simp] theorem State.refuseEncode_evtClass (s : State) : s.refuseEncode.evtClass = s.evtClass := rfl
@[simp] theorem State.refuseEncode_pending (s : State) : s.refuseEncode.pending = s.pending := rfl

/-! ### `returnFixed` (R134) -/

@[simp] theorem State.returnFixed_encDir (s : State) (kind : DecKind) : (s.returnFixed kind).encDir = s.encDir := rfl
@[simp] theorem State.returnFixed_txp (s : State) (kind : DecKind) : (s.returnFixed kind).txp = s.txp := rfl
@[simp] theorem State.returnFixed_txpLen (s : State) (kind : DecKind) : (s.returnFixed kind).txpLen = s.txpLen := rfl
@[simp] theorem State.returnFixed_txf (s : State) (kind : DecKind) : (s.returnFixed kind).txf = s.txf := rfl
@[simp] theorem State.returnFixed_txfLen (s : State) (kind : DecKind) : (s.returnFixed kind).txfLen = s.txfLen := rfl
@[simp] theorem State.returnFixed_encStatus (s : State) (kind : DecKind) : (s.returnFixed kind).encStatus = s.encStatus :=
  rfl
@[simp] theorem State.returnFixed_rxf (s : State) (kind : DecKind) : (s.returnFixed kind).rxf = s.rxf := rfl
@[simp] theorem State.returnFixed_rxfLen (s : State) (kind : DecKind) : (s.returnFixed kind).rxfLen = s.rxfLen := rfl
@[simp] theorem State.returnFixed_decKind (s : State) (kind : DecKind) : (s.returnFixed kind).decKind = kind := rfl
@[simp] theorem State.returnFixed_decDir (s : State) (kind : DecKind) : (s.returnFixed kind).decDir = s.decDir := rfl
@[simp] theorem State.returnFixed_rxp (s : State) (kind : DecKind) : (s.returnFixed kind).rxp = s.rxp := rfl
@[simp] theorem State.returnFixed_rxpLen (s : State) (kind : DecKind) : (s.returnFixed kind).rxpLen = 0 := rfl
@[simp] theorem State.returnFixed_decStatus (s : State) (kind : DecKind) : (s.returnFixed kind).decStatus = s.decStatus :=
  rfl
@[simp] theorem State.returnFixed_decErr (s : State) (kind : DecKind) : (s.returnFixed kind).decErr = .none := rfl
@[simp] theorem State.returnFixed_decErrInfo (s : State) (kind : DecKind) : (s.returnFixed kind).decErrInfo = s.decErrInfo :=
  rfl
@[simp] theorem State.returnFixed_evt (s : State) (kind : DecKind) : (s.returnFixed kind).evt = s.evt := rfl
@[simp] theorem State.returnFixed_evtStatus (s : State) (kind : DecKind) : (s.returnFixed kind).evtStatus = s.evtStatus :=
  rfl
@[simp] theorem State.returnFixed_evtClass (s : State) (kind : DecKind) : (s.returnFixed kind).evtClass = s.evtClass := rfl
@[simp] theorem State.returnFixed_pending (s : State) (kind : DecKind) : (s.returnFixed kind).pending = s.pending := rfl

/-! ### `returnErrorFrame` (R134) -/

@[simp] theorem State.returnErrorFrame_encDir (s : State) (status : Byte) : (s.returnErrorFrame status).encDir = s.encDir :=
  rfl
@[simp] theorem State.returnErrorFrame_txp (s : State) (status : Byte) : (s.returnErrorFrame status).txp = s.txp := rfl
@[simp] theorem State.returnErrorFrame_txpLen (s : State) (status : Byte) : (s.returnErrorFrame status).txpLen = s.txpLen :=
  rfl
@[simp] theorem State.returnErrorFrame_txf (s : State) (status : Byte) : (s.returnErrorFrame status).txf = s.txf := rfl
@[simp] theorem State.returnErrorFrame_txfLen (s : State) (status : Byte) : (s.returnErrorFrame status).txfLen = s.txfLen :=
  rfl
@[simp] theorem State.returnErrorFrame_encStatus (s : State) (status : Byte) :
    (s.returnErrorFrame status).encStatus = s.encStatus := rfl
@[simp] theorem State.returnErrorFrame_rxf (s : State) (status : Byte) : (s.returnErrorFrame status).rxf = s.rxf := rfl
@[simp] theorem State.returnErrorFrame_rxfLen (s : State) (status : Byte) : (s.returnErrorFrame status).rxfLen = s.rxfLen :=
  rfl
@[simp] theorem State.returnErrorFrame_decKind (s : State) (status : Byte) :
    (s.returnErrorFrame status).decKind = .errorFrame := rfl
@[simp] theorem State.returnErrorFrame_decDir (s : State) (status : Byte) : (s.returnErrorFrame status).decDir = s.decDir :=
  rfl
@[simp] theorem State.returnErrorFrame_rxp (s : State) (status : Byte) : (s.returnErrorFrame status).rxp = s.rxp := rfl
@[simp] theorem State.returnErrorFrame_rxpLen (s : State) (status : Byte) : (s.returnErrorFrame status).rxpLen = 0 := rfl
@[simp] theorem State.returnErrorFrame_decStatus (s : State) (status : Byte) :
    (s.returnErrorFrame status).decStatus = status := rfl
@[simp] theorem State.returnErrorFrame_decErr (s : State) (status : Byte) : (s.returnErrorFrame status).decErr = .none := rfl
@[simp] theorem State.returnErrorFrame_decErrInfo (s : State) (status : Byte) :
    (s.returnErrorFrame status).decErrInfo = s.decErrInfo := rfl
@[simp] theorem State.returnErrorFrame_evt (s : State) (status : Byte) : (s.returnErrorFrame status).evt = s.evt := rfl
@[simp] theorem State.returnErrorFrame_evtStatus (s : State) (status : Byte) :
    (s.returnErrorFrame status).evtStatus = s.evtStatus := rfl
@[simp] theorem State.returnErrorFrame_evtClass (s : State) (status : Byte) :
    (s.returnErrorFrame status).evtClass = s.evtClass := rfl
@[simp] theorem State.returnErrorFrame_pending (s : State) (status : Byte) : (s.returnErrorFrame status).pending = s.pending :=
  rfl

/-! ### `returnData` (R134) -/

@[simp] theorem State.returnData_encDir (s : State) (kind : DecKind) (dir : Direction) (pd : List Byte) :
    (s.returnData kind dir pd).encDir = s.encDir := rfl
@[simp] theorem State.returnData_txp (s : State) (kind : DecKind) (dir : Direction) (pd : List Byte) :
    (s.returnData kind dir pd).txp = s.txp := rfl
@[simp] theorem State.returnData_txpLen (s : State) (kind : DecKind) (dir : Direction) (pd : List Byte) :
    (s.returnData kind dir pd).txpLen = s.txpLen := rfl
@[simp] theorem State.returnData_txf (s : State) (kind : DecKind) (dir : Direction) (pd : List Byte) :
    (s.returnData kind dir pd).txf = s.txf := rfl
@[simp] theorem State.returnData_txfLen (s : State) (kind : DecKind) (dir : Direction) (pd : List Byte) :
    (s.returnData kind dir pd).txfLen = s.txfLen := rfl
@[simp] theorem State.returnData_encStatus (s : State) (kind : DecKind) (dir : Direction) (pd : List Byte) :
    (s.returnData kind dir pd).encStatus = s.encStatus := rfl
@[simp] theorem State.returnData_rxf (s : State) (kind : DecKind) (dir : Direction) (pd : List Byte) :
    (s.returnData kind dir pd).rxf = s.rxf := rfl
@[simp] theorem State.returnData_rxfLen (s : State) (kind : DecKind) (dir : Direction) (pd : List Byte) :
    (s.returnData kind dir pd).rxfLen = s.rxfLen := rfl
@[simp] theorem State.returnData_decKind (s : State) (kind : DecKind) (dir : Direction) (pd : List Byte) :
    (s.returnData kind dir pd).decKind = kind := rfl
@[simp] theorem State.returnData_decDir (s : State) (kind : DecKind) (dir : Direction) (pd : List Byte) :
    (s.returnData kind dir pd).decDir = dir := rfl
@[simp] theorem State.returnData_rxp (s : State) (kind : DecKind) (dir : Direction) (pd : List Byte) :
    (s.returnData kind dir pd).rxp = s.rxp.writeRun 0 pd := rfl
@[simp] theorem State.returnData_rxpLen (s : State) (kind : DecKind) (dir : Direction) (pd : List Byte) :
    (s.returnData kind dir pd).rxpLen = BitVec.ofNat 16 pd.length := rfl
@[simp] theorem State.returnData_decStatus (s : State) (kind : DecKind) (dir : Direction) (pd : List Byte) :
    (s.returnData kind dir pd).decStatus = s.decStatus := rfl
@[simp] theorem State.returnData_decErr (s : State) (kind : DecKind) (dir : Direction) (pd : List Byte) :
    (s.returnData kind dir pd).decErr = .none := rfl
@[simp] theorem State.returnData_decErrInfo (s : State) (kind : DecKind) (dir : Direction) (pd : List Byte) :
    (s.returnData kind dir pd).decErrInfo = s.decErrInfo := rfl
@[simp] theorem State.returnData_evt (s : State) (kind : DecKind) (dir : Direction) (pd : List Byte) :
    (s.returnData kind dir pd).evt = s.evt := rfl
@[simp] theorem State.returnData_evtStatus (s : State) (kind : DecKind) (dir : Direction) (pd : List Byte) :
    (s.returnData kind dir pd).evtStatus = s.evtStatus := rfl
@[simp] theorem State.returnData_evtClass (s : State) (kind : DecKind) (dir : Direction) (pd : List Byte) :
    (s.returnData kind dir pd).evtClass = s.evtClass := rfl
@[simp] theorem State.returnData_pending (s : State) (kind : DecKind) (dir : Direction) (pd : List Byte) :
    (s.returnData kind dir pd).pending = s.pending := rfl

/-! ### `raiseError` (R168) -/

@[simp] theorem State.raiseError_encDir (s : State) (e : ProtocolError) : (s.raiseError e).encDir = s.encDir := rfl
@[simp] theorem State.raiseError_txp (s : State) (e : ProtocolError) : (s.raiseError e).txp = s.txp := rfl
@[simp] theorem State.raiseError_txpLen (s : State) (e : ProtocolError) : (s.raiseError e).txpLen = s.txpLen := rfl
@[simp] theorem State.raiseError_txf (s : State) (e : ProtocolError) : (s.raiseError e).txf = s.txf := rfl
@[simp] theorem State.raiseError_txfLen (s : State) (e : ProtocolError) : (s.raiseError e).txfLen = s.txfLen := rfl
@[simp] theorem State.raiseError_encStatus (s : State) (e : ProtocolError) : (s.raiseError e).encStatus = s.encStatus := rfl
@[simp] theorem State.raiseError_rxf (s : State) (e : ProtocolError) : (s.raiseError e).rxf = s.rxf := rfl
@[simp] theorem State.raiseError_rxfLen (s : State) (e : ProtocolError) : (s.raiseError e).rxfLen = s.rxfLen := rfl
@[simp] theorem State.raiseError_decKind (s : State) (e : ProtocolError) : (s.raiseError e).decKind = .none := rfl
@[simp] theorem State.raiseError_decDir (s : State) (e : ProtocolError) : (s.raiseError e).decDir = s.decDir := rfl
@[simp] theorem State.raiseError_rxp (s : State) (e : ProtocolError) : (s.raiseError e).rxp = s.rxp := rfl
@[simp] theorem State.raiseError_rxpLen (s : State) (e : ProtocolError) : (s.raiseError e).rxpLen = 0 := rfl
@[simp] theorem State.raiseError_decStatus (s : State) (e : ProtocolError) : (s.raiseError e).decStatus = s.decStatus := rfl
@[simp] theorem State.raiseError_decErr (s : State) (e : ProtocolError) : (s.raiseError e).decErr = .raised (errorName e) :=
  rfl
@[simp] theorem State.raiseError_decErrInfo (s : State) (e : ProtocolError) :
    (s.raiseError e).decErrInfo = (errorInfo e).getD s.decErrInfo := rfl
@[simp] theorem State.raiseError_evt (s : State) (e : ProtocolError) : (s.raiseError e).evt = s.evt := rfl
@[simp] theorem State.raiseError_evtStatus (s : State) (e : ProtocolError) : (s.raiseError e).evtStatus = s.evtStatus := rfl
@[simp] theorem State.raiseError_evtClass (s : State) (e : ProtocolError) : (s.raiseError e).evtClass = s.evtClass := rfl
@[simp] theorem State.raiseError_pending (s : State) (e : ProtocolError) : (s.raiseError e).pending = s.pending := rfl

/-! ### `announce` (R150) -/

@[simp] theorem State.announce_encDir (s : State) (ev : Event) : (s.announce ev).encDir = s.encDir := rfl
@[simp] theorem State.announce_txp (s : State) (ev : Event) : (s.announce ev).txp = s.txp := rfl
@[simp] theorem State.announce_txpLen (s : State) (ev : Event) : (s.announce ev).txpLen = s.txpLen := rfl
@[simp] theorem State.announce_txf (s : State) (ev : Event) : (s.announce ev).txf = s.txf := rfl
@[simp] theorem State.announce_txfLen (s : State) (ev : Event) : (s.announce ev).txfLen = s.txfLen := rfl
@[simp] theorem State.announce_encStatus (s : State) (ev : Event) : (s.announce ev).encStatus = s.encStatus := rfl
@[simp] theorem State.announce_rxf (s : State) (ev : Event) : (s.announce ev).rxf = s.rxf := rfl
@[simp] theorem State.announce_rxfLen (s : State) (ev : Event) : (s.announce ev).rxfLen = s.rxfLen := rfl
@[simp] theorem State.announce_decKind (s : State) (ev : Event) : (s.announce ev).decKind = s.decKind := rfl
@[simp] theorem State.announce_decDir (s : State) (ev : Event) : (s.announce ev).decDir = s.decDir := rfl
@[simp] theorem State.announce_rxp (s : State) (ev : Event) : (s.announce ev).rxp = s.rxp := rfl
@[simp] theorem State.announce_rxpLen (s : State) (ev : Event) : (s.announce ev).rxpLen = s.rxpLen := rfl
@[simp] theorem State.announce_decStatus (s : State) (ev : Event) : (s.announce ev).decStatus = s.decStatus := rfl
@[simp] theorem State.announce_decErr (s : State) (ev : Event) : (s.announce ev).decErr = s.decErr := rfl
@[simp] theorem State.announce_decErrInfo (s : State) (ev : Event) : (s.announce ev).decErrInfo = s.decErrInfo := rfl
@[simp] theorem State.announce_evt (s : State) (ev : Event) : (s.announce ev).evt = eventTag ev := rfl
@[simp] theorem State.announce_evtStatus (s : State) (ev : Event) :
    (s.announce ev).evtStatus = (eventStatus ev).getD s.evtStatus := rfl
@[simp] theorem State.announce_evtClass (s : State) (ev : Event) : (s.announce ev).evtClass = classOfEvent ev := rfl
@[simp] theorem State.announce_pending (s : State) (ev : Event) : (s.announce ev).pending = s.pending := rfl

/-! ### `announceRejected` (R155) -/

@[simp] theorem State.announceRejected_encDir (s : State) (name : ErrorName) : (s.announceRejected name).encDir = s.encDir :=
  rfl
@[simp] theorem State.announceRejected_txp (s : State) (name : ErrorName) : (s.announceRejected name).txp = s.txp := rfl
@[simp] theorem State.announceRejected_txpLen (s : State) (name : ErrorName) : (s.announceRejected name).txpLen = s.txpLen :=
  rfl
@[simp] theorem State.announceRejected_txf (s : State) (name : ErrorName) : (s.announceRejected name).txf = s.txf := rfl
@[simp] theorem State.announceRejected_txfLen (s : State) (name : ErrorName) : (s.announceRejected name).txfLen = s.txfLen :=
  rfl
@[simp] theorem State.announceRejected_encStatus (s : State) (name : ErrorName) :
    (s.announceRejected name).encStatus = s.encStatus := rfl
@[simp] theorem State.announceRejected_rxf (s : State) (name : ErrorName) : (s.announceRejected name).rxf = s.rxf := rfl
@[simp] theorem State.announceRejected_rxfLen (s : State) (name : ErrorName) : (s.announceRejected name).rxfLen = s.rxfLen :=
  rfl
@[simp] theorem State.announceRejected_decKind (s : State) (name : ErrorName) :
    (s.announceRejected name).decKind = s.decKind := rfl
@[simp] theorem State.announceRejected_decDir (s : State) (name : ErrorName) : (s.announceRejected name).decDir = s.decDir :=
  rfl
@[simp] theorem State.announceRejected_rxp (s : State) (name : ErrorName) : (s.announceRejected name).rxp = s.rxp := rfl
@[simp] theorem State.announceRejected_rxpLen (s : State) (name : ErrorName) : (s.announceRejected name).rxpLen = s.rxpLen :=
  rfl
@[simp] theorem State.announceRejected_decStatus (s : State) (name : ErrorName) :
    (s.announceRejected name).decStatus = s.decStatus := rfl
@[simp] theorem State.announceRejected_decErr (s : State) (name : ErrorName) : (s.announceRejected name).decErr = s.decErr :=
  rfl
@[simp] theorem State.announceRejected_decErrInfo (s : State) (name : ErrorName) :
    (s.announceRejected name).decErrInfo = s.decErrInfo := rfl
@[simp] theorem State.announceRejected_evt (s : State) (name : ErrorName) : (s.announceRejected name).evt = .rejected := rfl
@[simp] theorem State.announceRejected_evtStatus (s : State) (name : ErrorName) :
    (s.announceRejected name).evtStatus = s.evtStatus := rfl
@[simp] theorem State.announceRejected_evtClass (s : State) (name : ErrorName) :
    (s.announceRejected name).evtClass = classOf (.protocol name) := rfl
@[simp] theorem State.announceRejected_pending (s : State) (name : ErrorName) :
    (s.announceRejected name).pending = s.pending := rfl

/-! ### `announceNothing` (R150) -/

@[simp] theorem State.announceNothing_encDir (s : State) : s.announceNothing.encDir = s.encDir := rfl
@[simp] theorem State.announceNothing_txp (s : State) : s.announceNothing.txp = s.txp := rfl
@[simp] theorem State.announceNothing_txpLen (s : State) : s.announceNothing.txpLen = s.txpLen := rfl
@[simp] theorem State.announceNothing_txf (s : State) : s.announceNothing.txf = s.txf := rfl
@[simp] theorem State.announceNothing_txfLen (s : State) : s.announceNothing.txfLen = s.txfLen := rfl
@[simp] theorem State.announceNothing_encStatus (s : State) : s.announceNothing.encStatus = s.encStatus := rfl
@[simp] theorem State.announceNothing_rxf (s : State) : s.announceNothing.rxf = s.rxf := rfl
@[simp] theorem State.announceNothing_rxfLen (s : State) : s.announceNothing.rxfLen = s.rxfLen := rfl
@[simp] theorem State.announceNothing_decKind (s : State) : s.announceNothing.decKind = s.decKind := rfl
@[simp] theorem State.announceNothing_decDir (s : State) : s.announceNothing.decDir = s.decDir := rfl
@[simp] theorem State.announceNothing_rxp (s : State) : s.announceNothing.rxp = s.rxp := rfl
@[simp] theorem State.announceNothing_rxpLen (s : State) : s.announceNothing.rxpLen = s.rxpLen := rfl
@[simp] theorem State.announceNothing_decStatus (s : State) : s.announceNothing.decStatus = s.decStatus := rfl
@[simp] theorem State.announceNothing_decErr (s : State) : s.announceNothing.decErr = s.decErr := rfl
@[simp] theorem State.announceNothing_decErrInfo (s : State) : s.announceNothing.decErrInfo = s.decErrInfo := rfl
@[simp] theorem State.announceNothing_evt (s : State) : s.announceNothing.evt = .none := rfl
@[simp] theorem State.announceNothing_evtStatus (s : State) : s.announceNothing.evtStatus = s.evtStatus := rfl
@[simp] theorem State.announceNothing_evtClass (s : State) : s.announceNothing.evtClass = .noError := rfl
@[simp] theorem State.announceNothing_pending (s : State) : s.announceNothing.pending = s.pending := rfl

end Sys2Proof.Machine
end

