-- ==== Sys2Proof/Laws/Step.lean ====
section
/-! SUPPORT. What `exec` and `step` can do, said once: three cases for `exec` (emit, receive, report), and the cases of a step by
the host's next action. -/

namespace Sys2Proof.Machine

/-! ### The operation that is started -/

theorem State.started_eq_some_iff (s : State) (op : Operation) :
    s.started = some op ↔ ∃ rest, s.pending = .start op :: rest := by
  unfold State.started
  split <;> rename_i h
  · rw [h]
    simp only [Option.some.injEq, List.cons.injEq, HostAction.start.injEq]
    exact ⟨fun e => ⟨_, e, rfl⟩, fun ⟨_, e, _⟩ => e⟩
  · simp only [reduceCtorEq, false_iff, not_exists]
    exact fun rest e => h op rest e

theorem State.started_of_pending {s : State} {op : Operation} {rest : List HostAction}
    (h : s.pending = .start op :: rest) : s.started = some op := (s.started_eq_some_iff op).mpr ⟨rest, h⟩

/-! ### exec -/

/-- The payload of a form has a length the form can carry. -/
def payloadOk : Instr → Bool
  | .ack => true
  | .nack => true
  | .error _ => true
  | .extendedH2C pd => extendedPayloadOk pd
  | .extendedC2H pd => extendedPayloadOk pd
  | .normalH2C pd => normalPayloadOk pd
  | .normalC2H pd => normalPayloadOk pd

/-- What DECODE writes when it recognises a form. -/
def State.receive (s : State) : Instr → State
  | .ack => s.returnFixed .ack
  | .nack => s.returnFixed .nack
  | .error status => s.returnErrorFrame status
  | .extendedH2C pd => s.returnData .extended .h2c pd
  | .extendedC2H pd => s.returnData .extended .c2h pd
  | .normalH2C pd => s.returnData .normal .h2c pd
  | .normalC2H pd => s.returnData .normal .c2h pd

theorem payloadOk_of_wellFormed {c : Params} {i : Instr} (h : i.wellFormed c = true) : payloadOk i = true := by
  cases i <;> first | rfl | exact h

/-- A form that an operation emits is well-formed as soon as its payload length is. -/
theorem wellFormed_of_payloadOk {c : Params} {i : Instr} (he : emitterOf i ≠ none) (h : payloadOk i = true) :
    i.wellFormed c = true := by
  cases i <;> first | rfl | exact h | exact absurd rfl he

/-- `perform` answers a next state in three cases. -/
theorem State.perform_eq_next_iff (s : State) (emits : Option Operation) (ok : Bool) (emitted received reported t : State) :
    s.perform emits ok emitted received reported = .next t ↔
      (s.started = some .decode ∧ ok = true ∧ t = received) ∨ (s.started = some .dispatch ∧ t = reported) ∨
      (∃ op, s.started = some op ∧ op ≠ .decode ∧ op ≠ .dispatch ∧ emits = some op ∧ ok = true ∧ t = emitted) := by
  unfold State.perform
  cases h : s.started with
  | none => simp
  | some op =>
    cases op <;> cases ok <;> simp [eq_comm (b := t)] <;> split <;> simp_all [eq_comm (b := t)]

/-- `exec` on a form that has no encoder case of its own stays as it is there; every other form emits its bytes. -/
theorem exec_eq_perform (i : Instr) (s : State) : exec i s =
    s.perform (emitterOf i) (payloadOk i) (if emitterOf i = none then s else s.emitFrame (encode Config.hardware i))
      (s.receive i) (s.announce (eventOfFrame i)) := by
  cases i <;> rfl

/-- `exec` answers a next state in three cases: DECODE recognises the form, DISPATCH reports it, or its own encoder
operation emits it. -/
theorem exec_eq_next_iff (i : Instr) (s t : State) : exec i s = .next t ↔
    (s.started = some .decode ∧ payloadOk i = true ∧ t = s.receive i) ∨
    (s.started = some .dispatch ∧ t = s.announce (eventOfFrame i)) ∨
    (∃ op, s.started = some op ∧ op ≠ .decode ∧ op ≠ .dispatch ∧ emitterOf i = some op ∧ payloadOk i = true ∧
      t = s.emitFrame (encode Config.hardware i)) := by
  rw [exec_eq_perform, State.perform_eq_next_iff]
  refine or_congr_right (or_congr_right (exists_congr fun op => ?_))
  refine and_congr_right fun _ => and_congr_right fun _ => and_congr_right fun _ => and_congr_right fun h => ?_
  rw [if_neg (by rw [h]; exact Option.some_ne_none op)]

/-- `exec` never changes what the host does next. -/
theorem exec_pending {i : Instr} {s t : State} (h : exec i s = .next t) : t.pending = s.pending := by
  rcases (exec_eq_next_iff i s t).mp h with ⟨_, _, rfl⟩ | ⟨_, rfl⟩ | ⟨_, _, _, _, _, _, rfl⟩
  · cases i <;> rfl
  · rfl
  · rfl

/-! ### step -/

theorem retire_eq_next_iff (rest : List HostAction) (o : Host.Outcome State Fault Refusal) (t : State) :
    retire rest o = .next t ↔ ∃ u, o = .next u ∧ t = { u with pending := rest } := by
  cases o <;> simp [retire, eq_comm]

theorem retire_eq_fault_iff (rest : List HostAction) (o : Host.Outcome State Fault Refusal) (r : Fault) :
    retire rest o = .fault r ↔ o = .fault r := by
  cases o <;> simp [retire]

theorem retire_eq_refused_iff (rest : List HostAction) (o : Host.Outcome State Fault Refusal) (r : Refusal) :
    retire rest o = .refused r ↔ o = .refused r := by
  cases o <;> simp [retire]

/-- A step that starts an operation, by what the operation finds on its operand ports. -/
theorem step_of_start {s : State} {op : Operation} {rest : List HostAction} (h : s.pending = .start op :: rest) :
    step s = match select s op with
      | .form i => retire rest (exec i s)
      | .ends t => retire rest (.next t)
      | .stops r => .refused r := by
  simp only [step, h] <;> rfl

/-- A step in which the host writes an operand port. -/
theorem step_of_write {s : State} {action : HostAction} {rest : List HostAction} (h : s.pending = action :: rest)
    (hw : ∀ op, action ≠ .start op) : step s = retire rest (s.hostWrite action) := by
  cases action with
  | start op => exact absurd rfl (hw op)
  | _ => simp only [step, h]

/-- With nothing to come the block stays as it is. -/
theorem step_of_nil {s : State} (h : s.pending = []) : step s = .next s := by
  simp only [step, h]

/-- Everything a step to a next state can be. -/
theorem step_cases {s t : State} (h : step s = .next t) :
    (s.pending = [] ∧ t = s) ∨
    (∃ op rest i u, s.pending = .start op :: rest ∧ select s op = .form i ∧ exec i s = .next u ∧
      t = { u with pending := rest }) ∨
    (∃ op rest u, s.pending = .start op :: rest ∧ select s op = .ends u ∧ t = { u with pending := rest }) ∨
    (∃ action rest u, s.pending = action :: rest ∧ (∀ op, action ≠ .start op) ∧ s.hostWrite action = .next u ∧
      t = { u with pending := rest }) := by
  cases hp : s.pending with
  | nil =>
    rw [step_of_nil hp] at h
    cases h
    exact Or.inl ⟨rfl, rfl⟩
  | cons action rest =>
    cases action with
    | start op =>
      rw [step_of_start hp] at h
      cases hs : select s op with
      | form i =>
        rw [hs] at h
        obtain ⟨u, hu, rfl⟩ := (retire_eq_next_iff _ _ _).mp h
        exact Or.inr (Or.inl ⟨op, rest, i, u, rfl, hs, hu, rfl⟩)
      | ends u =>
        rw [hs] at h
        obtain ⟨u', hu, rfl⟩ := (retire_eq_next_iff _ _ _).mp h
        cases hu
        exact Or.inr (Or.inr (Or.inl ⟨op, rest, u, rfl, hs, rfl⟩))
      | stops r =>
        rw [hs] at h
        cases h
    | _ =>
      rw [step_of_write hp (by simp)] at h
      obtain ⟨u, hu, rfl⟩ := (retire_eq_next_iff _ _ _).mp h
      exact Or.inr (Or.inr (Or.inr ⟨_, rest, u, rfl, by simp, hu, rfl⟩))

/-- What each operation that finds no form ends in. -/
theorem select_ends_cases {s u : State} {op : Operation} (h : select s op = .ends u) :
    (op = .encode ∧ s.txpLen.toNat > Config.hardware.maxPayload ∧ u = s.refuseEncode) ∨
    (op = .decode ∧ ∃ e, decodeFrame Config.hardware s.rxFrame = .error e ∧ u = s.raiseError e) ∨
    (op = .dispatch ∧ s.decKind = .none ∧ ∃ name, s.decErr = .raised name ∧ u = s.announceRejected name) ∨
    (op = .dispatch ∧ s.decKind = .none ∧ s.decErr = .none ∧ u = s.announceNothing) := by
  cases op with
  | encode =>
    simp only [select, selectEncode] at h
    split at h
    · cases h; exact Or.inl ⟨rfl, by assumption, rfl⟩
    · cases h
  | encAck => cases h
  | encNack => cases h
  | decode =>
    simp only [select, selectDecode] at h
    split at h
    · cases h
    · cases h; exact Or.inr (Or.inl ⟨rfl, _, by assumption, rfl⟩)
  | dispatch =>
    simp only [select, selectDispatch, State.heldFrame] at h
    refine Or.inr (Or.inr ?_)
    cases hk : s.decKind <;> cases he : s.decErr <;> rw [hk, he] at h <;> cases h
    · exact Or.inr ⟨rfl, rfl, rfl, rfl⟩
    · exact Or.inl ⟨rfl, rfl, _, rfl, rfl⟩

/-! ### Forms by direction -/

@[simp] theorem encode_dataFrame (c : Params) (form : Form) (dir : Direction) (pd : List Byte) :
    encode c (dataFrame form dir pd) =
      match form with
      | .normal => normalBytes dir pd
      | .extended => extendedBytes c dir pd := by
  cases form <;> cases dir <;> rfl

@[simp] theorem eventOfFrame_dataFrame (form : Form) (dir : Direction) (pd : List Byte) :
    eventOfFrame (dataFrame form dir pd) = .data dir pd := by
  cases form <;> cases dir <;> rfl

@[simp] theorem emitterOf_dataFrame (form : Form) (dir : Direction) (pd : List Byte) :
    emitterOf (dataFrame form dir pd) = some .encode := by
  cases form <;> cases dir <;> rfl

@[simp] theorem receive_dataFrame (s : State) (form : Form) (dir : Direction) (pd : List Byte) :
    s.receive (dataFrame form dir pd) =
      s.returnData (match form with
        | .normal => .normal
        | .extended => .extended) dir pd := by
  cases form <;> cases dir <;> rfl

end Sys2Proof.Machine
end

