-- ==== Sys2Proof/Tests/Slice0.lean ====
section
/-! SUPPORT. The model's own tests: the well-formedness checks on ill-formed terms, the vectors of spec/95_test_vectors.md on the
codec, single steps, and for every obligation with hypotheses a witness that meets them. Expected values are the spec's, not the
model's; each comment names the vector. -/

namespace Sys2Proof.Tests

open Sys2Proof Sys2Proof.Machine

/-! ### Helpers -/

/-- This hardware's parameters. -/
abbrev hw : Params := Config.hardware

/-- The payload of D-E14: 255 bytes `AA`. -/
abbrev longPayload : List Byte := List.replicate 255 0xAA

/-- Concrete ports with nothing done, and a host that starts `op` and then does `rest`. -/
def starting (op : Operation) (rest : List HostAction := []) : State where
  encDir := .h2c
  txp := []
  txpLen := 0
  txf := []
  txfLen := 0
  encStatus := .idle
  rxf := []
  rxfLen := 0
  decKind := .none
  decDir := .h2c
  rxp := []
  rxpLen := 0
  decStatus := 0x11
  decErr := .none
  decErrInfo := .short 0 0
  evt := .none
  evtStatus := 0x22
  evtClass := .noError
  pending := .start op :: rest

/-- The same with a payload on the encoder's operand ports. -/
def sending (dir : Direction) (pd : List Byte) : State :=
  { starting .encode with encDir := dir, txp := Memory.cellsFrom 0 pd, txpLen := BitVec.ofNat 17 pd.length }

/-- The same with a byte string presented to DECODE. -/
def presenting (b : List Byte) (rest : List HostAction := []) : State :=
  { starting .decode rest with rxf := Memory.cellsFrom 0 b, rxfLen := b.length }

/-- The state a step or an instruction goes on with. -/
def after (o : Host.Outcome State Fault Refusal) : Option State :=
  match o with
  | .next t => some t
  | .fault _ => none
  | .refused _ => none

/-! ### Well-formed and ill-formed terms (R62, R63, R66, R74) -/

theorem test_wf_normal_longest : (Instr.normalH2C (List.replicate 254 0x00)).wellFormed hw = true := by decide +kernel

theorem test_wf_normal_too_long :
    (Instr.normalH2C (List.replicate 255 0x00)).wellFormed hw = false ∧
    (Instr.normalC2H (List.replicate 255 0x00)).wellFormed hw = false := by decide +kernel

theorem test_wf_extended_too_short :
    (Instr.extendedH2C (List.replicate 254 0x00)).wellFormed hw = false ∧
    (Instr.extendedC2H (List.replicate 254 0x00)).wellFormed hw = false := by decide +kernel

theorem test_wf_extended_bounds :
    (Instr.extendedH2C (List.replicate 255 0x00)).wellFormed hw = true ∧
    (Instr.extendedC2H (List.replicate 65534 0x00)).wellFormed hw = true ∧
    (Instr.extendedH2C (List.replicate 65535 0x00)).wellFormed hw = false ∧
    (Instr.extendedC2H (List.replicate 65535 0x00)).wellFormed hw = false := by
  simp only [Instr.wellFormed, extendedPayloadOk, List.length_replicate]
  decide

theorem test_wf_error_status :
    (Instr.error 0x7F).wellFormed hw = true ∧ (Instr.error 0x80).wellFormed hw = false := by decide

/-! ### Checksums -/

/-- D-C1 to D-C6. -/
theorem test_lcs8 : lcs8 0x01 = 0xFF ∧ lcs8 0x02 = 0xFE ∧ lcs8 0x06 = 0xFA ∧ lcs8 0x7F = 0x81 ∧ lcs8 0x80 = 0x80 ∧
    lcs8 0xFE = 0x02 ∧ lcs8 0xFF = 0x01 ∧ lcs8 0x00 = 0x00 := by decide

/-- D-C7 to D-C11, D-C13 to D-C16. -/
theorem test_dcs : dcs 0xD4 [] = 0x2C ∧ dcs 0xD5 [] = 0x2B ∧ dcs 0xD4 [0x02] = 0x2A ∧ dcs 0xD4 [0x2C] = 0x00 ∧
    dcs 0xD5 [0x2B] = 0x00 ∧ dcs 0xD4 [0xFF] = 0x2D ∧ dcs 0xD5 [0x80, 0x80] = 0x2B ∧
    dcs 0xD4 [0x40, 0x01, 0x05, 0x00, 0xFF, 0xFF, 0x01, 0x00] = 0xE7 ∧ dcs 0xD5 [0x03, 0x32, 0x01, 0x06, 0x07] = 0xE8 ∧
    dcs 0xD5 [0x15] = 0x16 ∧ dcs 0xD5 longPayload = 0xD5 := by decide +kernel

/-- The table under D-C22, column `sum16`. -/
theorem test_extLcs_sum16 : extLcs .sum16 0x0100 = [0xFF, 0x00] ∧ extLcs .sum16 0x0101 = [0xFE, 0xFF] ∧
    extLcs .sum16 0x012D = [0xFE, 0xD3] ∧ extLcs .sum16 0x01FF = [0xFE, 0x01] ∧ extLcs .sum16 0x8000 = [0x80, 0x00] ∧
    extLcs .sum16 0xFFFF = [0x00, 0x01] := by decide

/-- The table under D-C22, column `bytewise`. -/
theorem test_extLcs_bytewise : extLcs .bytewise 0x0100 = [0xFF, 0x00] ∧ extLcs .bytewise 0x0101 = [0xFF, 0xFF] ∧
    extLcs .bytewise 0x012D = [0xFF, 0xD3] ∧ extLcs .bytewise 0x0200 = [0xFE, 0x00] ∧
    extLcs .bytewise 0xFFFF = [0x01, 0x01] := by decide

/-- The table under D-C22, column `lcs1`. -/
theorem test_extLcs_lcs1 : extLcs .lcs1 0x0100 = [0xFF] ∧ extLcs .lcs1 0x012D = [0xD2] ∧ extLcs .lcs1 0x01FF = [0x00] ∧
    extLcs .lcs1 0xFFFF = [0x02] := by decide

/-! ### The decoder on words written out from the layouts -/

/-- D-D1, D-D2, D-D3: the fixed forms. -/
theorem test_decode_fixed :
    decodeFrame hw [0x00, 0x00, 0xFF, 0x00, 0xFF, 0x00] = .ok .ack ∧
    decodeFrame hw [0x00, 0x00, 0xFF, 0xFF, 0xFF, 0x00] = .ok .nack ∧
    decodeFrame hw [0x00, 0x00, 0xFF, 0x01, 0xFF, 0x7F, 0x81, 0x00] = .ok (.error 0x7F) := by decide

/-- D-D4, D-D6, D-D10, D-D33: Normal, host to controller. -/
theorem test_decode_normal_h2c :
    decodeFrame hw [0x00, 0x00, 0xFF, 0x02, 0xFE, 0xD4, 0x02, 0x2A, 0x00] = .ok (.normalH2C [0x02]) ∧
    decodeFrame hw [0x00, 0x00, 0xFF, 0x01, 0xFF, 0xD4, 0x2C, 0x00] = .ok (.normalH2C []) ∧
    decodeFrame hw [0x00, 0x00, 0xFF, 0x07, 0xF9, 0xD4, 0x05, 0x00, 0xFF, 0xFF, 0x01, 0x00, 0x28, 0x00] =
      .ok (.normalH2C [0x05, 0x00, 0xFF, 0xFF, 0x01, 0x00]) ∧
    decodeFrame hw [0x00, 0x00, 0xFF, 0x02, 0xFE, 0xD4, 0x2C, 0x00, 0x00] = .ok (.normalH2C [0x2C]) := by decide

/-- D-D5, D-D8, D-D9: Normal, controller to host. -/
theorem test_decode_normal_c2h :
    decodeFrame hw [0x00, 0x00, 0xFF, 0x02, 0xFE, 0xD5, 0x02, 0x29, 0x00] = .ok (.normalC2H [0x02]) ∧
    decodeFrame hw [0x00, 0x00, 0xFF, 0x06, 0xFA, 0xD5, 0x03, 0x32, 0x01, 0x06, 0x07, 0xE8, 0x00] =
      .ok (.normalC2H [0x03, 0x32, 0x01, 0x06, 0x07]) ∧
    decodeFrame hw [0x00, 0x00, 0xFF, 0x02, 0xFE, 0xD5, 0x15, 0x16, 0x00] = .ok (.normalC2H [0x15]) := by decide

/-- D-D12 (the frame of D-E14): Extended, controller to host. -/
theorem test_decode_extended_c2h :
    decodeFrame hw ([0x00, 0x00, 0xFF, 0xFF, 0xFF, 0x01, 0x00, 0xFF, 0x00, 0xD5] ++ longPayload ++ [0xD5, 0x00]) =
      .ok (.extendedC2H longPayload) := by decide +kernel

/-- R63 with `dcs(D4, 255 x AA) = D6` (D-D54): Extended, host to controller. -/
theorem test_decode_extended_h2c :
    decodeFrame hw ([0x00, 0x00, 0xFF, 0xFF, 0xFF, 0x01, 0x00, 0xFF, 0x00, 0xD4] ++ longPayload ++ [0xD6, 0x00]) =
      .ok (.extendedH2C longPayload) := by decide +kernel

/-! ### The decoder on inputs it rejects -/

/-- D-D14, D-D15, D-D19, D-D20, D-D21, D-D42, D-D43. -/
theorem test_reject_short :
    decodeFrame hw [] = .error (.shortRead 0 0) ∧
    decodeFrame hw [0x00, 0x00, 0xFF, 0x00] = .error (.shortRead 4 4) ∧
    decodeFrame hw [0x00, 0x00, 0xFF, 0xFF, 0xFF] = .error (.shortRead 5 5) ∧
    decodeFrame hw [0x00, 0x00, 0xFF, 0xFF, 0xFF, 0x00, 0x00] = .error (.shortRead 7 7) ∧
    decodeFrame hw [0x00, 0x00, 0xFF, 0x02, 0xFE, 0xD4, 0x02, 0x2A] = .error (.shortRead 8 8) ∧
    decodeFrame hw [0x00, 0x00, 0xFF, 0xFF, 0x01, 0xD4] = .error (.shortRead 6 6) := by decide

/-- D-D16, D-D18, D-D30, D-D31, D-D32. -/
theorem test_reject_lcs :
    decodeFrame hw [0x00, 0x00, 0xFF, 0x00, 0xFF] = .error (.checksumMismatch .lcs (.byte 0x00) (.byte 0xFF) 4) ∧
    decodeFrame hw [0x00, 0x00, 0xFF, 0x00, 0xFF, 0x00, 0x00] =
      .error (.checksumMismatch .lcs (.byte 0x00) (.byte 0xFF) 4) ∧
    decodeFrame hw [0x00, 0x00, 0xFF, 0x02, 0xFF, 0xD4, 0x02, 0x2A, 0x00] =
      .error (.checksumMismatch .lcs (.byte 0xFE) (.byte 0xFF) 4) ∧
    decodeFrame hw [0x00, 0x00, 0xFF, 0x03, 0xFE, 0xD4, 0x02, 0x2A, 0x00] =
      .error (.checksumMismatch .lcs (.byte 0xFD) (.byte 0xFE) 4) ∧
    decodeFrame hw [0x00, 0x00, 0xFF, 0xFF, 0x00, 0xD4] =
      .error (.checksumMismatch .lcs (.byte 0x01) (.byte 0x00) 4) := by decide

/-- D-D25 to D-D28, D-D24. -/
theorem test_reject_envelope :
    decodeFrame hw [0x01, 0x00, 0xFF, 0x02, 0xFE, 0xD4, 0x02, 0x2A, 0x00] =
      .error (.framingError .badPreamble 0 (.byte 0x01)) ∧
    decodeFrame hw [0x00, 0x01, 0xFF, 0x02, 0xFE, 0xD4, 0x02, 0x2A, 0x00] =
      .error (.framingError .badStartCode 1 (.byte 0x01)) ∧
    decodeFrame hw [0x00, 0x00, 0x00, 0xFF, 0x02, 0xFE, 0xD4, 0x02, 0x2A, 0x00] =
      .error (.framingError .badStartCode 2 (.byte 0x00)) ∧
    decodeFrame hw [0x00, 0x00, 0xFF, 0x00, 0x00] = .error (.framingError .zeroLength 3 (.byte 0x00)) := by decide

/-- D-D22, D-D23, D-D38, D-D39. -/
theorem test_reject_tfi :
    decodeFrame hw [0x00, 0x00, 0xFF, 0x01, 0xFF, 0x7F, 0x80, 0x00] = .error (.framingError .badTFI 5 (.byte 0x7F)) ∧
    decodeFrame hw [0x00, 0x00, 0xFF, 0x01, 0xFF, 0x7F, 0x81] = .error (.framingError .badTFI 5 (.byte 0x7F)) ∧
    decodeFrame hw [0x00, 0x00, 0xFF, 0x02, 0xFE, 0x7F, 0x02, 0x7F, 0x00] =
      .error (.framingError .badTFI 5 (.byte 0x7F)) ∧
    decodeFrame hw [0x00, 0x00, 0xFF, 0x02, 0xFE, 0xD6, 0x02, 0x28, 0x00] =
      .error (.framingError .badTFI 5 (.byte 0xD6)) := by decide

/-- D-D35, D-D37, D-D40, D-D41. -/
theorem test_reject_tail :
    decodeFrame hw [0x00, 0x00, 0xFF, 0x02, 0xFE, 0xD4, 0x02, 0x2B, 0x00] =
      .error (.checksumMismatch .dcs (.byte 0x2A) (.byte 0x2B) 7) ∧
    decodeFrame hw [0x00, 0x00, 0xFF, 0x02, 0xFE, 0xD5, 0x02, 0x2A, 0x00] =
      .error (.checksumMismatch .dcs (.byte 0x29) (.byte 0x2A) 7) ∧
    decodeFrame hw [0x00, 0x00, 0xFF, 0x02, 0xFE, 0xD4, 0x02, 0x2A, 0x01] =
      .error (.framingError .badPostamble 8 (.byte 0x01)) ∧
    decodeFrame hw [0x00, 0x00, 0xFF, 0x02, 0xFE, 0xD4, 0x02, 0x2A, 0x00, 0x00] =
      .error (.framingError .trailingBytes 9 (.byte 0x00)) := by decide

/-- D-D44 to D-D47. -/
theorem test_reject_extended_header :
    decodeFrame hw [0x00, 0x00, 0xFF, 0xFF, 0xFF, 0x00, 0x01, 0xFF, 0xFF, 0xD4, 0x2C, 0x00] =
      .error (.framingError .nonCanonicalLength 5 (.length 1)) ∧
    decodeFrame hw [0x00, 0x00, 0xFF, 0xFF, 0xFF, 0x00, 0xFF, 0xFF, 0x01, 0xD4] =
      .error (.framingError .nonCanonicalLength 5 (.length 255)) ∧
    decodeFrame hw [0x00, 0x00, 0xFF, 0xFF, 0xFF, 0x01, 0x00, 0xFE, 0x00, 0xD4] =
      .error (.checksumMismatch .lcs16 (.word 0xFF00) (.word 0xFE00) 7) ∧
    decodeFrame hw [0x00, 0x00, 0xFF, 0xFF, 0xFF, 0x01, 0x00, 0xFF] = .error (.shortRead 8 8) := by decide

/-! ### The encoder -/

/-- D-E1, D-E2, D-E3, D-E7. -/
theorem test_encode_normal :
    encodeFrame hw .h2c [] = some [0x00, 0x00, 0xFF, 0x01, 0xFF, 0xD4, 0x2C, 0x00] ∧
    encodeFrame hw .c2h [] = some [0x00, 0x00, 0xFF, 0x01, 0xFF, 0xD5, 0x2B, 0x00] ∧
    encodeFrame hw .h2c [0x02] = some [0x00, 0x00, 0xFF, 0x02, 0xFE, 0xD4, 0x02, 0x2A, 0x00] ∧
    encodeFrame hw .c2h [0x03, 0x32, 0x01, 0x06, 0x07] =
      some [0x00, 0x00, 0xFF, 0x06, 0xFA, 0xD5, 0x03, 0x32, 0x01, 0x06, 0x07, 0xE8, 0x00] := by decide

/-- D-E12, D-E14: the last Normal and the first Extended payload length. -/
theorem test_encode_boundary :
    encodeFrame hw .c2h (List.replicate 254 0xAA) =
      some ([0x00, 0x00, 0xFF, 0xFF, 0x01, 0xD5] ++ List.replicate 254 0xAA ++ [0x7F, 0x00]) ∧
    encodeFrame hw .c2h longPayload =
      some ([0x00, 0x00, 0xFF, 0xFF, 0xFF, 0x01, 0x00, 0xFF, 0x00, 0xD5] ++ longPayload ++ [0xD5, 0x00]) := by decide +kernel

/-- D-E19: one byte more than `MAX_PAYLOAD`. -/
theorem test_encode_refused : encodeFrame hw .h2c (List.replicate 65535 0x00) = none := by
  simp only [encodeFrame, List.length_replicate]
  decide

/-- The headers of `pat(255)` under the other values of `EXT_LCS_RULE`, and the length under `lcs1`. -/
theorem test_encode_other_rules :
    (encode { hw with extLcsRule := .bytewise } (.extendedH2C longPayload)).take 10 =
      [0x00, 0x00, 0xFF, 0xFF, 0xFF, 0x01, 0x00, 0xFF, 0x00, 0xD4] ∧
    (encode { hw with extLcsRule := .lcs1 } (.extendedH2C longPayload)).take 9 =
      [0x00, 0x00, 0xFF, 0xFF, 0xFF, 0x01, 0x00, 0xFF, 0xD4] ∧
    (encode { hw with extLcsRule := .lcs1 } (.extendedH2C longPayload)).length = 266 := by decide +kernel

/-- R75 on the first bytes of each form. -/
theorem test_frameTotalLen :
    frameTotalLen hw [0x00, 0x00, 0xFF, 0x00, 0xFF] = some 6 ∧ frameTotalLen hw [0x00, 0x00, 0xFF, 0xFF, 0xFF, 0x00] = some 6 ∧
    frameTotalLen hw [0x00, 0x00, 0xFF, 0x01, 0xFF] = some 8 ∧
    frameTotalLen hw [0x00, 0x00, 0xFF, 0xFF, 0x01] = some 262 ∧
    frameTotalLen hw [0x00, 0x00, 0xFF, 0xFF, 0xFF, 0x01, 0x00] = some 267 ∧ frameTotalLen hw [0x00, 0x00, 0xFF] = none := by
  decide

/-! ### One step, or one instruction, at a time -/

/-- D-E20. -/
theorem test_encAck : (after (step (starting .encAck))).map (fun t => (t.txFrame, t.txfLen.toNat, t.encStatus)) =
    some ([0x00, 0x00, 0xFF, 0x00, 0xFF, 0x00], 6, .done) := by decide

/-- P1, step 2: DECODE of an ACK. -/
theorem test_receive_ack : (after (step (presenting [0x00, 0x00, 0xFF, 0x00, 0xFF, 0x00]))).map
    (fun t => (t.decKind, t.decErr, t.rxpLen.toNat)) = some (.ack, .none, 0) := by decide

/-- D-E21. -/
theorem test_encNack : (after (step (starting .encNack))).map (fun t => (t.txFrame, t.txfLen.toNat, t.encStatus)) =
    some ([0x00, 0x00, 0xFF, 0xFF, 0xFF, 0x00], 6, .done) := by decide

/-- D-X2. -/
theorem test_report_nack : (after (exec .nack (starting .dispatch))).map (fun t => (t.evt, t.evtClass, t.evtStatus)) =
    some (.resendRequested, .noError, 0x22) := by decide

/-- P4, step 1: DECODE of the error frame. -/
theorem test_receive_error : (after (step (presenting [0x00, 0x00, 0xFF, 0x01, 0xFF, 0x7F, 0x81, 0x00]))).map
    (fun t => (t.decKind, t.decStatus, t.decErr)) = some (.errorFrame, 0x7F, .none) := by decide

/-- D-X3. -/
theorem test_report_error : (after (exec (.error 0x7F) (starting .dispatch))).map
    (fun t => (t.evt, t.evtStatus, t.evtClass)) = some (.errorFrameReceived, 0x7F, .protocolSemantic) := by decide

/-- P1, step 1: ENCODE of a one-byte payload. -/
theorem test_send_normal_h2c : (after (step (sending .h2c [0x02]))).map (fun t => (t.txFrame, t.encStatus)) =
    some ([0x00, 0x00, 0xFF, 0x02, 0xFE, 0xD4, 0x02, 0x2A, 0x00], .done) := by decide

/-- D-X6: the block does not police direction. -/
theorem test_report_normal_h2c : (after (exec (.normalH2C [0x02]) (starting .dispatch))).map (fun t => (t.evt, t.evtClass)) =
    some (.data, .noError) := by decide

/-- D-E2: ENCODE of an empty payload. -/
theorem test_send_normal_c2h : (after (step (sending .c2h []))).map (fun t => (t.txFrame, t.encStatus)) =
    some ([0x00, 0x00, 0xFF, 0x01, 0xFF, 0xD5, 0x2B, 0x00], .done) := by decide

/-- P1, step 4: DECODE of a response. -/
theorem test_receive_normal_c2h :
    (after (step (presenting [0x00, 0x00, 0xFF, 0x06, 0xFA, 0xD5, 0x03, 0x32, 0x01, 0x06, 0x07, 0xE8, 0x00]))).map
      (fun t => (t.decKind, t.decDir, t.rxPayload, t.rxpLen.toNat, t.decErr)) =
    some (.normal, .c2h, [0x03, 0x32, 0x01, 0x06, 0x07], 5, .none) := by decide

/-- R63 with `dcs(D4, 255 x AA) = D6` (D-D54): the header and tail of an emitted Extended frame. -/
theorem test_send_extended_h2c : (after (exec (.extendedH2C longPayload) (starting .encode))).map
    (fun t => (t.txfLen.toNat, (List.range 10).map t.txf.read, t.txf.read 265, t.txf.read 266)) =
    some (267, [0x00, 0x00, 0xFF, 0xFF, 0xFF, 0x01, 0x00, 0xFF, 0x00, 0xD4].map some, some 0xD6, some 0x00) := by decide +kernel

/-- R134: what DECODE writes for an Extended frame from the host. -/
theorem test_receive_extended_h2c : (after (exec (.extendedH2C longPayload) (starting .decode))).map
    (fun t => (t.decKind, t.decDir, t.rxpLen.toNat, t.rxp.read 254, t.rxp.read 255)) =
    some (.extended, .h2c, 255, some 0xAA, none) := by decide +kernel

/-- P2, step 2: what DECODE writes for an Extended frame. -/
theorem test_receive_extended_c2h : (after (exec (.extendedC2H longPayload) (starting .decode))).map
    (fun t => (t.decKind, t.decDir, t.rxpLen.toNat, t.rxp.read 0, t.decErr)) =
    some (.extended, .c2h, 255, some 0xAA, .none) := by decide +kernel

/-- D-X5: the form is forgotten. -/
theorem test_report_extended_c2h : (after (exec (.extendedC2H longPayload) (starting .dispatch))).map
    (fun t => (t.evt, t.evtClass)) = some (.data, .noError) := by decide +kernel

/-- P4, step 3: a rejection; the status of an earlier error frame stays. -/
theorem test_rejection : (after (step (presenting [0x00, 0x00, 0xFF, 0x01, 0xFF, 0x7F, 0x80, 0x00]))).map
    (fun t => (t.decKind, t.decErr, t.decErrInfo, t.decStatus)) =
    some (.none, .raised .framingError, .framing .badTFI 5 (.byte 0x7F), 0x11) := by decide

/-- D-X8: what DISPATCH makes of a rejection. -/
theorem test_report_rejection :
    (after (step { starting .dispatch with decErr := .raised .framingError })).map
      (fun t => (t.evt, t.evtClass, t.evtStatus)) = some (.rejected, .framingLevel, 0x22) := by decide

/-- D-X10. -/
theorem test_report_nothing : (after (step (starting .dispatch))).map (fun t => (t.evt, t.evtClass)) =
    some (.none, .noError) := by decide

/-- P4, step 4: the refusal. -/
theorem test_refused : (after (step { starting .encode with txpLen := 65535, txfLen := 9, encStatus := .done })).map
    (fun t => (t.encStatus, t.txfLen.toNat)) = some (.refused, 0) := by decide

/-- R41: 17 bits reach the last index of TXP and no further. -/
theorem test_host_write_edge :
    (after (step { starting .encode with pending := [.writeTxp 131071 [0x5A]] })).map (fun t => t.txp.read 131071) =
      some (some 0x5A) ∧
    after (step { starting .encode with pending := [.writeTxp 131071 [0x5A, 0x5B]] }) = none := by decide

/-- The fetch of a table word of row ACK (`00 00 FF 00 FF 00`, bit 0 first) from the state after reset. -/
theorem test_withFetchWord : (after (step (State.reset.withFetchWord 48 0x00FF00FF0000))).map (fun t => t.decKind) =
    some .ack := by decide

theorem test_decodeTableWord : decodeTableWord 48 0x00FF00FF0000 = some .ack ∧
    decodeTableWord 48 0x00FFFFFF0000 = some .nack := by decide

/-! ### Codes and classes (R23, R27, R28, R156, R161, R164) -/

theorem test_codes : encStatusCode .refused = 2 ∧ decKindCode .errorFrame = 5 ∧ evtCode .rejected = 5 ∧
    evtClassCode .protocolSemantic = 3 ∧ decErrCode (.raised .shortRead) = 6 ∧ decErrCode .none = 0 ∧
    framingReasonCode .trailingBytes = 7 ∧ checksumFieldCode .dcs = 3 ∧ directionCode .c2h = 1 := by decide

/-- The sentence under D-X10, and the Transport's and the engine's own errors. -/
theorem test_classOf : classOf (.protocol .timeout) = .transportLevel ∧
    classOf (.protocol .unexpectedFrameKind) = .framingLevel ∧ classOf (.protocol .unknownOpcode) = .protocolSemantic ∧
    classOf (.protocol .statusFlagError) = .protocolSemantic ∧
    classOf (.protocol .errorFrameReceived) = .protocolSemantic ∧ classOf (.transport .openError) = .transportLevel ∧
    classOf .idmMismatch = .protocolSemantic := by decide

/-! ### Witnesses: for each obligation with hypotheses, operands and a state that meet them

S1 is the frame `00 00 FF 02 FE D4 02 2A 00` of the payload `02`. -/

/-- The bytes of S1. -/
abbrev s1 : List Byte := [0x00, 0x00, 0xFF, 0x02, 0xFE, 0xD4, 0x02, 0x2A, 0x00]

theorem test_witness_DecodeOfEncodeIsTheForm : hw.Legal ∧ Instr.ack.wellFormed hw = true ∧
    (Instr.error 0x7F).wellFormed hw = true ∧ (Instr.normalC2H []).wellFormed hw = true ∧
    (Instr.extendedH2C (List.replicate 65534 0x00)).wellFormed hw = true :=
  ⟨hardware_legal, rfl, by decide, by decide, by
    simp only [Instr.wellFormed, extendedPayloadOk, List.length_replicate]; decide⟩

/-- The shortest and the longest payload of each form. -/
theorem test_witness_DecodeRecoversEncodeOperands : hw.Legal ∧ ([] : List Byte).length ≤ hw.maxPayload ∧
    (List.replicate 254 (0x00 : Byte)).length ≤ hw.maxPayload ∧ longPayload.length ≤ hw.maxPayload ∧
    (List.replicate 65534 (0x00 : Byte)).length ≤ hw.maxPayload := by
  refine ⟨hardware_legal, ?_⟩
  simp only [List.length_replicate, List.length_nil]
  decide

theorem test_witness_AcceptedFramesAreCanonical :
    decodeFrame hw s1 = .ok (dataFrame .normal .h2c [0x02]) ∧
    decodeFrame hw ([0x00, 0x00, 0xFF, 0xFF, 0xFF, 0x01, 0x00, 0xFF, 0x00, 0xD5] ++ longPayload ++ [0xD5, 0x00]) =
      .ok (dataFrame .extended .c2h longPayload) ∧
    decodeFrame hw ackBytes = .ok .ack := ⟨by decide, test_decode_extended_c2h, by decide⟩

theorem test_witness_AcceptedSetIsFixedFormsAndEncoderRange : hw.Legal := hardware_legal

/-- The length checksum and the data checksum of S1, and the length checksum of a 255-byte payload. -/
theorem test_witness_FlippedChecksumBitIsMismatch : hw.Legal ∧ (0 : Nat) < 8 ∧
    (encode hw (dataFrame (chooseForm [0x02]) .h2c [0x02]))[4]? = some 0xFE ∧
    isChecksumOffset (chooseForm [0x02]) (extLcsSize hw.extLcsRule) 9 4 = true ∧
    (encode hw (dataFrame (chooseForm [0x02]) .h2c [0x02]))[7]? = some 0x2A ∧
    isChecksumOffset (chooseForm [0x02]) (extLcsSize hw.extLcsRule) 9 7 = true ∧
    (encode hw (dataFrame (chooseForm longPayload) .c2h longPayload))[8]? = some 0x00 ∧
    isChecksumOffset (chooseForm longPayload) (extLcsSize hw.extLcsRule) 267 8 = true :=
  ⟨hardware_legal, by decide +kernel⟩

theorem test_witness_AnyFlippedBitIsRejected : [(0x02 : Byte)].length ≤ 65534 ∧ (7 : Nat) < 8 ∧
    (encode hw (dataFrame (chooseForm [0x02]) .h2c [0x02]))[0]? = some 0x00 ∧
    (encode hw (dataFrame (chooseForm [0x02]) .h2c [0x02]))[8]? = some 0x00 := by decide

theorem test_witness_EncodedFramesSumToZero : ([] : List Byte).length ≤ 65534 ∧ chooseForm [] = .normal ∧
    longPayload.length ≤ 65534 ∧ chooseForm longPayload = .extended := by decide +kernel

theorem test_witness_EncoderIsInjectiveAndNeverFixed : hw.Legal ∧ encodeFrame hw .h2c [0x02] = some s1 :=
  ⟨hardware_legal, by decide⟩

/-- One buffer for each of the three errors. -/
theorem test_witness_DecoderRaisesThreeErrors : decodeFrame hw [] = .error (.shortRead 0 0) ∧
    decodeFrame hw [0x01] = .error (.framingError .badPreamble 0 (.byte 0x01)) ∧
    decodeFrame hw [0x00, 0x00, 0xFF, 0x00, 0xFF] = .error (.checksumMismatch .lcs (.byte 0x00) (.byte 0xFF) 4) := by decide

theorem test_witness_EnvelopeIsCheckedByteByByte : hw.Legal ∧ (0xFF : Byte) ≠ 0x00 ∧ (0xFE : Byte) ≠ 0xFF :=
  ⟨hardware_legal, by decide, by decide⟩

/-- A wrong checksum; a checksum that fits a length of 0. -/
theorem test_witness_NormalLengthErrorsComeFirst :
    (envelopeBytes ++ [0x02, 0xFF] ≠ ackBytes ∧ envelopeBytes ++ [0x02, 0xFF] ≠ hw.errorBytes ∧
      ¬ ((0x02 : Byte) = 0xFF ∧ (0xFF : Byte) = 0xFF) ∧ ((0x02 : Byte).toNat + (0xFF : Byte).toNat) % 256 ≠ 0) ∧
    (envelopeBytes ++ [0x00, 0x00] ≠ ackBytes ∧ envelopeBytes ++ [0x00, 0x00] ≠ hw.errorBytes ∧
      ¬ ((0x00 : Byte) = 0xFF ∧ (0x00 : Byte) = 0xFF) ∧ ((0x00 : Byte).toNat + (0x00 : Byte).toNat) % 256 = 0) := by decide

/-- A header that ends before its checksum does; a wrong checksum of length 256; the right checksum of the length 255. -/
theorem test_witness_ExtendedLengthErrorsComeFirst :
    (([0x01, 0x00, 0xFF] : List Byte).length < 2 + extLcsSize hw.extLcsRule ∧
      envelopeBytes ++ extMark ++ [0x01, 0x00, 0xFF] ≠ nackBytes ∧
      envelopeBytes ++ extMark ++ [0x01, 0x00, 0xFF] ≠ hw.errorBytes) ∧
    ([0xFE, 0x00] : List Byte).length = extLcsSize hw.extLcsRule ∧
    [0xFE, 0x00] ≠ extLcs hw.extLcsRule (be16 0x01 0x00) ∧
    envelopeBytes ++ extMark ++ [0x01, 0x00, 0xFE, 0x00] ≠ hw.errorBytes ∧
    [0xFF, 0x01] = extLcs hw.extLcsRule (be16 0x00 0xFF) ∧ be16 0x00 0xFF < 256 ∧
    envelopeBytes ++ extMark ++ [0x00, 0xFF, 0xFF, 0x01] ≠ hw.errorBytes := by decide

/-- The shortest and the longest length of each form. -/
theorem test_witness_BadTfiWinsOverWhatFollows : (0x7F : Byte) ≠ 0xD4 ∧ (0x7F : Byte) ≠ 0xD5 ∧
    ((0x01 : Byte) ≠ 0x00 ∧ envelopeBytes ++ [0x01, lcs8 0x01, 0x7F] ≠ hw.errorBytes) ∧
    ((0xFF : Byte) ≠ 0x00 ∧ envelopeBytes ++ [0xFF, lcs8 0xFF, 0x7F] ≠ hw.errorBytes) ∧
    envelopeBytes ++ extMark ++ hi8 256 :: lo8 256 :: extLcs hw.extLcsRule 256 ++ [0x7F] ≠ hw.errorBytes ∧
    envelopeBytes ++ extMark ++ hi8 65535 :: lo8 65535 :: extLcs hw.extLcsRule 65535 ++ [0x7F] ≠ hw.errorBytes := by decide

/-- S1 with a wrong data checksum, a wrong postamble, and a trailing byte. -/
theorem test_witness_TailErrorsComeInOrder : [(0x02 : Byte)].length ≤ 65534 ∧ (0x2B : Byte) ≠ dcs (tfiOf .h2c) [0x02] ∧
    s1.take 7 ++ [0x2B] ≠ hw.errorBytes ∧ (0x01 : Byte) ≠ 0x00 ∧
    s1.take 7 ++ [dcs (tfiOf .h2c) [0x02], 0x01] ≠ hw.errorBytes ∧ s1 ++ [0x00] ≠ hw.errorBytes := by decide

/-- S1 without its last byte, and nothing of it. -/
theorem test_witness_CutOffFrameIsShortRead : [(0x02 : Byte)].length ≤ 65534 ∧ (8 : Nat) < s1.length ∧
    s1.take 8 ≠ hw.errorBytes ∧ (0 : Nat) < s1.length ∧ s1.take 0 ≠ hw.errorBytes := by decide

/-- D-C9: a payload with checksum 0; D-C8: one without. -/
theorem test_witness_ZeroDataChecksumIsOrdinary : hw.Legal ∧ [(0x2C : Byte)].length ≤ 254 ∧
    ((tfiOf .h2c).toNat + byteSum [0x2C]) % 256 = 0 ∧ ((tfiOf .h2c).toNat + byteSum [0x02]) % 256 ≠ 0 :=
  ⟨hardware_legal, by decide⟩

theorem test_witness_FrameLengthIsToldByItsFirstBytes : Instr.nack.wellFormed hw = true ∧ emitterOf .nack ≠ none ∧
    (Instr.normalC2H []).wellFormed hw = true ∧ emitterOf (.normalC2H []) ≠ none ∧
    (Instr.extendedC2H longPayload).wellFormed hw = true := by decide +kernel

theorem test_witness_AckIsEmitted : (starting .encAck).started = some .encAck := rfl

theorem test_witness_NackIsEmitted : (starting .encNack).started = some .encNack := rfl

theorem test_witness_NormalFrameIsEmitted : (starting .encode).started = some .encode ∧ ([] : List Byte).length ≤ 254 ∧
    (List.replicate 254 (0x00 : Byte)).length ≤ 254 := by decide +kernel

theorem test_witness_ExtendedFrameIsEmitted : (starting .encode).started = some .encode ∧ 255 ≤ longPayload.length ∧
    255 ≤ (List.replicate 65534 (0x00 : Byte)).length ∧ (List.replicate 65534 (0x00 : Byte)).length ≤ 65534 := by
  refine ⟨rfl, ?_⟩
  simp only [List.length_replicate]
  decide

theorem test_witness_FixedFormsAreReceived : (starting .decode).started = some .decode := rfl

theorem test_witness_DataFormsAreReceived : (starting .decode).started = some .decode ∧
    (Form.normal = .normal → ([] : List Byte).length ≤ 254) ∧
    (Form.extended = .extended → 255 ≤ longPayload.length ∧ longPayload.length ≤ 65534) := by decide +kernel

theorem test_witness_FixedFormsAreReported : (starting .dispatch).started = some .dispatch := rfl

theorem test_witness_DataFormsAreReported : (starting .dispatch).started = some .dispatch := rfl

/-- A refused ENCODE and one that is done. -/
theorem test_witness_NoOperationEmitsTheErrorFrame : (sending .h2c [0x02]).started = some .encode ∧
    (after (step (sending .h2c [0x02]))).map State.encStatus = some .done := by decide

theorem test_witness_EmittingLeavesTheRestAlone : (starting .encAck).started = some .encAck ∧
    (after (exec .ack (starting .encAck))).isSome ∧ (after (exec (.normalH2C [0x02]) (starting .encode))).isSome := by decide

theorem test_witness_ReceivingAFixedFormLeavesTheRestAlone : (starting .decode).started = some .decode ∧
    (after (exec .nack (starting .decode))).isSome ∧ (after (exec (.error 0x7F) (starting .decode))).isSome := by decide

theorem test_witness_ReceivingADataFormLeavesTheRestAlone : (starting .decode).started = some .decode ∧
    (after (exec (dataFrame .normal .c2h [0x15]) (starting .decode))).isSome ∧
    (after (exec (dataFrame .extended .c2h longPayload) (starting .decode))).isSome := by decide +kernel

theorem test_witness_ReportingLeavesTheRestAlone : (starting .dispatch).started = some .dispatch ∧
    (after (exec .ack (starting .dispatch))).isSome ∧ (after (exec (.error 0x7F) (starting .dispatch))).isSome := by decide

theorem test_witness_StepRunsTheDecodedForm : (presenting s1).pending = [.start .decode] ∧
    decodeFrame hw (presenting s1).rxFrame = .ok (.normalH2C [0x02]) := by decide

theorem test_witness_StepRunsTheSelectedForm : (sending .h2c [0x02]).pending = [.start .encode] ∧
    (sending .h2c [0x02]).txpLen.toNat ≤ 65534 ∧ (starting .encAck).pending = [.start .encAck] ∧
    (starting .encNack).pending = [.start .encNack] ∧
    State.heldFrame { starting .dispatch with decKind := .ack } = some .ack ∧
    (starting .dispatch).pending = [.start .dispatch] ∧ (starting .dispatch).decErr = .none := by decide

/-- Both sides of `MAX_PAYLOAD`. -/
theorem test_witness_EncodeOperationWritesTheFrame : (starting .encode).started = some .encode ∧
    State.txpLen { starting .encode with txpLen := 65534 } = 65534 ∧ (65534 : BitVec 17).toNat ≤ 65534 ∧
    65534 < (65535 : BitVec 17).toNat := by decide

theorem test_witness_TooLongPayloadIsRefused :
    State.started { starting .encode with txpLen := 65535 } = some .encode ∧
    65534 < (State.txpLen { starting .encode with txpLen := 65535 }).toNat := by decide

theorem test_witness_DecodeOperationWritesItsResult : (presenting s1).started = some .decode := rfl

theorem test_witness_ErrorWritesFourPorts : (presenting []).pending = [.start .decode] ∧
    decodeFrame hw (presenting []).rxFrame = .error (.shortRead 0 0) := by decide

theorem test_witness_DecodeThenDispatchIsPureDispatch :
    (presenting s1 [.start .dispatch]).pending = .start .decode :: .start .dispatch :: [] := rfl

theorem test_witness_RejectionIsReportedUnchanged :
    (presenting [0x01] [.start .dispatch]).pending = .start .decode :: .start .dispatch :: [] ∧
    decodeFrame hw (presenting [0x01] [.start .dispatch]).rxFrame =
      .error (.framingError .badPreamble 0 (.byte 0x01)) := by decide

theorem test_witness_DispatchWithoutDecodeReportsNothing : (starting .dispatch).pending = [.start .dispatch] ∧
    (starting .dispatch).decKind = .none ∧ (starting .dispatch).decErr = .none := by decide

/-- The last write that fits TXP and the first that does not. -/
theorem test_witness_HostWritesReachTheOperandPorts :
    State.pending { starting .encode with pending := [.writeTxp 131071 [0x5A]] } = [.writeTxp 131071 [0x5A]] ∧
    131071 + [(0x5A : Byte)].length ≤ 2 ^ 17 ∧ 2 ^ 17 < 131072 + [(0x5A : Byte)].length ∧
    State.pending { starting .encode with pending := [.writeRxf 0 s1] } = [.writeRxf 0 s1] := by decide

theorem test_witness_EmitAllIsEmitByByte : (starting .encode).txfLen.toNat + 1 < 2 ^ 17 ∧
    (State.txfLen { starting .encode with txfLen := 131070 }).toNat + 1 < 2 ^ 17 := by decide

theorem test_witness_StepsKeepBuffersCanonical : (sending .h2c [0x02, 0x03]).BuffersCanonical ∧
    (after (step (sending .h2c [0x02, 0x03]))).isSome := by
  unfold State.BuffersCanonical
  decide

theorem test_witness_StepsKeepExtents : (sending .h2c [0x02]).WithinExtents ∧
    (after (step (sending .h2c [0x02]))).isSome := by
  unfold State.WithinExtents Memory.Below
  decide

/-- Before ENCODE, and before DECODE with a frame left in TXF. -/
theorem test_witness_StepsKeepEncoderCoherent : (sending .h2c [0x02]).EncoderCoherent ∧
    (after (step (sending .h2c [0x02]))).isSome ∧
    State.EncoderCoherent { presenting s1 with encStatus := .done, txfLen := 9, txf := Memory.cellsFrom 0 s1 } :=
  ⟨rfl, by decide, .normalH2C [0x02], by decide, by decide, by decide, by decide⟩

theorem test_witness_StepsKeepDecoderCoherent : (presenting s1).DecoderCoherent ∧ (after (step (presenting s1))).isSome :=
  ⟨⟨⟨rfl, Or.inl rfl⟩, by decide⟩, by decide⟩

/-- DISPATCH of an error frame. -/
theorem test_witness_StepsKeepDispatcherCoherent :
    State.DecoderCoherent { starting .dispatch with decKind := .errorFrame, decStatus := 0x7F } ∧
    State.DispatcherCoherent { starting .dispatch with decKind := .errorFrame, decStatus := 0x7F } ∧
    (after (step { starting .dispatch with decKind := .errorFrame, decStatus := 0x7F })).isSome :=
  ⟨⟨⟨rfl, rfl, by decide⟩, by decide⟩, rfl, by decide⟩

theorem test_witness_CoherentBlockStopsOnlyOnBadHostWrite : (starting .dispatch).DecoderCoherent :=
  ⟨⟨rfl, Or.inl rfl⟩, by decide⟩

/-- Ports that hold a frame and an error, which no run from reset reaches. -/
theorem test_witness_StepRefusesOnlyWithoutDecodeResult :
    State.started { starting .dispatch with decKind := .ack, decErr := .raised .shortRead } = some .dispatch ∧
    after (step { starting .dispatch with decKind := .ack, decErr := .raised .shortRead }) = none := by decide

theorem test_witness_OperationsAlwaysEnd : (starting .decode).started = some .decode ∧ Operation.decode ≠ .dispatch := by decide

theorem test_witness_WhateverIsEmittedDecodes : (sending .h2c [0x02]).EncoderCoherent ∧
    (after (step (sending .h2c [0x02]))).map State.encStatus = some .done := ⟨rfl, by decide⟩

/-- An emitted frame, and a refusal. -/
theorem test_witness_EmittedLengthsAreThoseOfTheForms : (sending .h2c [0x02]).EncoderCoherent ∧
    (after (step (sending .h2c [0x02]))).map State.encStatus = some .done ∧
    (after (step { starting .encode with txpLen := 65535 })).map State.encStatus = some .refused :=
  ⟨rfl, by decide, by decide⟩

theorem test_witness_LoopbackGivesBackTheOperands : (sending .h2c [0x02]).pending = [.start .encode] ∧
    (sending .h2c [0x02]).txpLen.toNat ≤ 65534 ∧ (after (step (sending .h2c [0x02]))).isSome := by decide

/-- The same operands beside different results of earlier operations. -/
theorem test_witness_EncodeDependsOnItsOperandsAlone :
    SameEncoderOperands (sending .h2c [0x02]) { sending .h2c [0x02] with txf := [(0, 0x5A)], txfLen := 1 } ∧
    (after (step (sending .h2c [0x02]))).isSome ∧
    (after (step { sending .h2c [0x02] with txf := [(0, 0x5A)], txfLen := 1 })).isSome :=
  ⟨⟨rfl, rfl⟩, by decide, by decide⟩

theorem test_witness_DecodeDependsOnItsInputAlone :
    SameDecoderOperands (presenting s1) { presenting s1 with decKind := .ack, rxp := [(0, 0x5A)] } ∧
    (after (step (presenting s1))).isSome ∧
    (after (step { presenting s1 with decKind := .ack, rxp := [(0, 0x5A)] })).isSome := ⟨rfl, by decide, by decide⟩

/-- Two different payloads of the same kind. -/
theorem test_witness_DispatchIgnoresPayloadAndDirection :
    (after (step { starting .dispatch with decKind := .normal })).isSome ∧
    (after (step { starting .dispatch with decKind := .normal, decDir := .c2h, rxpLen := 1, rxp := [(0, 0x5A)] })).isSome := by
  decide

end Sys2Proof.Tests
end

section
/-! PROOFS. The checksum invariants of every encoder output (40_checksums.md R96): both data frames are cut into a header of
known length, the payload, and the two last bytes; the equations are then R94's predicates on the checksums of R91 to R93. -/

namespace Sys2Proof.Proofs

open Sys2Proof.Machine

/-! ### The two last bytes and the payload of a frame -/

/-- R92: the data checksum of a frame is its last byte but one. -/
theorem getElem?_last_but_one (front : List Byte) (d p : Byte) :
    (front ++ [d, p])[(front ++ [d, p]).length - 2]? = some d := by
  simp

/-- What stands between a header of `n` bytes and a tail. -/
theorem take_drop_between {n m : Nat} (head pd tail : List Byte) (hn : head.length = n) (hm : pd.length = m) :
    ((head ++ pd ++ tail).drop n).take m = pd := by
  rw [List.append_assoc, List.drop_left' hn, List.take_left' hm]

/-! ### The checksum equations of R94 -/

/-- R91: a length and its checksum sum to 0 mod 256. -/
theorem len_add_lcs8 (len : Byte) : (len.toNat + (lcs8 len).toNat) % 256 = 0 :=
  of_decide_eq_true ((lcsOk_iff len (lcs8 len)).mpr rfl)

/-- R92: TFI, payload and data checksum sum to 0 mod 256. -/
theorem tfi_add_byteSum_add_dcs (tfi : Byte) (pd : List Byte) :
    (tfi.toNat + byteSum pd + (dcs tfi pd).toNat) % 256 = 0 :=
  of_decide_eq_true ((dcsOk_iff tfi pd (dcs tfi pd)).mpr rfl)

/-- R93: the checksum of a 16-bit length fits its two bytes. -/
theorem extLcsOk_extLcs (r : ExtLcsRule) {len : Nat} (h : len < 65536) :
    extLcsOk r (hi8 len) (lo8 len) (extLcs r len) = true := by
  rw [extLcsOk_iff, be16_hi8_lo8 h]

/-! ### The Normal frame (R101) -/

/-- The bytes of a Normal frame before the payload. -/
def normalHead (dir : Direction) (pd : List Byte) : List Byte :=
  let len : Byte := BitVec.ofNat 8 (1 + pd.length)
  envelopeBytes ++ [len, lcs8 len, tfiOf dir]

theorem normalBytes_eq_head_append (dir : Direction) (pd : List Byte) :
    normalBytes dir pd = normalHead dir pd ++ pd ++ [dcs (tfiOf dir) pd, postamble] := by
  simp [normalBytes, normalHead]

theorem normalBytes_dcs (dir : Direction) (pd : List Byte) :
    (normalBytes dir pd)[(normalBytes dir pd).length - 2]? = some (dcs (tfiOf dir) pd) := by
  rw [normalBytes_eq_head_append, getElem?_last_but_one]

theorem normalBytes_payload (dir : Direction) (pd : List Byte) :
    ((normalBytes dir pd).drop 6).take ((normalBytes dir pd).length - 8) = pd := by
  rw [length_normalBytes, normalBytes_eq_head_append]
  exact take_drop_between _ _ _ rfl (by omega)

/-! ### The Extended frame (R102) -/

/-- The bytes of an Extended frame before its length checksum. -/
def extendedHead (pd : List Byte) : List Byte :=
  envelopeBytes ++ extMark ++ [hi8 (1 + pd.length), lo8 (1 + pd.length)]

@[simp] theorem length_extendedHead (pd : List Byte) : (extendedHead pd).length = 7 := rfl

theorem extendedBytes_eq_head_append (c : Params) (dir : Direction) (pd : List Byte) :
    extendedBytes c dir pd = extendedHead pd ++ extLcs c.extLcsRule (1 + pd.length) ++ [tfiOf dir] ++ pd ++
      [dcs (tfiOf dir) pd, postamble] := by
  simp [extendedBytes, extendedHead]

theorem extendedBytes_lcs (c : Params) (dir : Direction) (pd : List Byte) :
    ((extendedBytes c dir pd).drop 7).take (extLcsSize c.extLcsRule) = extLcs c.extLcsRule (1 + pd.length) := by
  rw [extendedBytes_eq_head_append, List.append_assoc, List.append_assoc]
  exact take_drop_between _ _ _ (length_extendedHead pd) (length_extLcs _ _)

theorem extendedBytes_tfi (c : Params) (dir : Direction) (pd : List Byte) :
    (extendedBytes c dir pd)[7 + extLcsSize c.extLcsRule]? = some (tfiOf dir) := by
  have hlen : (extendedHead pd ++ extLcs c.extLcsRule (1 + pd.length)).length = 7 + extLcsSize c.extLcsRule := by simp
  rw [extendedBytes_eq_head_append, List.append_assoc, List.append_assoc, ← hlen,
    List.getElem?_append_right (Nat.le_refl _), Nat.sub_self]
  rfl

theorem extendedBytes_dcs (c : Params) (dir : Direction) (pd : List Byte) :
    (extendedBytes c dir pd)[(extendedBytes c dir pd).length - 2]? = some (dcs (tfiOf dir) pd) := by
  rw [extendedBytes_eq_head_append, getElem?_last_but_one]

theorem extendedBytes_payload (c : Params) (dir : Direction) (pd : List Byte) :
    ((extendedBytes c dir pd).drop (8 + extLcsSize c.extLcsRule)).take
      ((extendedBytes c dir pd).length - (10 + extLcsSize c.extLcsRule)) = pd := by
  have hlen : (extendedHead pd ++ extLcs c.extLcsRule (1 + pd.length) ++ [tfiOf dir]).length =
      8 + extLcsSize c.extLcsRule := by
    simp only [List.length_append, length_extendedHead, length_extLcs, List.length_singleton]
    omega
  rw [length_extendedBytes, extendedBytes_eq_head_append]
  exact take_drop_between _ _ _ hlen (by omega)

/-! ### R96 -/

/-- Settles O7: the bytes at the offsets of each form are the length, its checksum, the TFI and the data checksum, and the
equations are those of R94 for the computed checksums. -/
theorem encodedFramesSumToZero : Obligations.EncodedFramesSumToZero := by
  intro c dir pd hpd
  cases chooseForm pd with
  | normal =>
    simp only [encode_dataFrame]
    refine ⟨_, _, tfiOf dir, _, rfl, rfl, rfl, normalBytes_dcs dir pd, len_add_lcs8 _, ?_⟩
    rw [normalBytes_payload]
    exact tfi_add_byteSum_add_dcs _ _
  | extended =>
    simp only [encode_dataFrame]
    refine ⟨_, _, tfiOf dir, _, rfl, rfl, extendedBytes_tfi c dir pd, extendedBytes_dcs c dir pd, ?_, ?_⟩
    · rw [extendedBytes_lcs]
      exact extLcsOk_extLcs _ (by omega)
    · rw [extendedBytes_payload]
      exact tfi_add_byteSum_add_dcs _ _

end Sys2Proof.Proofs
end

section
/-! PROOFS. What the encoder operations write (41_encode.md R100 to R104). A frame that `emitFrame` stores is the frame `TXF`
holds; `exec` of a form under its own operation emits the form's bytes; and the step that starts ENCODE is either the refusal
or the emission of the chosen form. -/

namespace Sys2Proof.Proofs

open Sys2Proof.Machine

/-! ### What an emitted frame leaves on the ports -/

/-- R41, R48: `TXF_LEN` counts every frame that fits the extent of `TXF`. -/
theorem toNat_emitFrame_txfLen (s : State) {frame : List Byte} (h : frame.length ≤ 65546) :
    (s.emitFrame frame).txfLen.toNat = frame.length := by
  rw [State.emitFrame_txfLen, zero_add, BitVec.toNat_ofNat, Nat.mod_eq_of_lt (by omega)]

/-- R48: the bytes emitted are the bytes found in `TXF`. -/
theorem txFrame_emitFrame (s : State) {frame : List Byte} (h : frame.length ≤ 65546) :
    (s.emitFrame frame).txFrame = frame := by
  rw [State.txFrame, toNat_emitFrame_txfLen s h, State.emitFrame_txf, Memory.prefixBytes_writeRun]

/-- R41: no form that an operation takes is longer than the 65546 bytes of `TXF`. -/
theorem length_encode_hardware_le {i : Instr} (h : payloadOk i = true) : (encode Config.hardware i).length ≤ 65546 := by
  have hext (pd : List Byte) (hpd : extendedPayloadOk pd = true) (dir : Direction) :
      (extendedBytes Config.hardware dir pd).length ≤ 65546 := by
    have hle : pd.length ≤ 65534 := (of_decide_eq_true hpd).2
    have hsize := extLcsSize_le Config.hardware.extLcsRule
    rw [length_extendedBytes]
    omega
  have hnorm (pd : List Byte) (hpd : normalPayloadOk pd = true) (dir : Direction) :
      (normalBytes dir pd).length ≤ 65546 := by
    have hle : pd.length ≤ 254 := of_decide_eq_true hpd
    rw [length_normalBytes]
    omega
  cases i with
  | ack => decide
  | nack => decide
  | error _ => exact (by decide : Config.hardware.errorBytes.length ≤ 65546)
  | extendedH2C pd => exact hext pd h .h2c
  | extendedC2H pd => exact hext pd h .c2h
  | normalH2C pd => exact hnorm pd h .h2c
  | normalC2H pd => exact hnorm pd h .c2h

/-! ### exec of a form under its own encoder operation -/

/-- R105: only the encoder operations emit. -/
theorem emitterOf_ne_decode_dispatch {i : Instr} {op : Operation} (h : emitterOf i = some op) :
    op ≠ .decode ∧ op ≠ .dispatch := by
  cases i <;> cases h <;> decide

/-- The operation of a form emits its bytes. -/
theorem exec_of_emitter {i : Instr} {s : State} {op : Operation} (hs : s.started = some op) (he : emitterOf i = some op)
    (hok : payloadOk i = true) : exec i s = .next (s.emitFrame (encode Config.hardware i)) := by
  obtain ⟨hdec, hdis⟩ := emitterOf_ne_decode_dispatch he
  exact (exec_eq_next_iff i s _).mpr (Or.inr (Or.inr ⟨op, hs, hdec, hdis, he, hok, rfl⟩))

/-- What the ports hold after the operation of a form: the form's bytes, their number, and Done. -/
theorem exec_emits {i : Instr} {s : State} {op : Operation} (hs : s.started = some op) (he : emitterOf i = some op)
    (hok : payloadOk i = true) :
    ∃ t, exec i s = .next t ∧ t.txFrame = encode Config.hardware i ∧
      t.txfLen.toNat = (encode Config.hardware i).length ∧ t.encStatus = .done := by
  have hlen := length_encode_hardware_le hok
  exact ⟨_, exec_of_emitter hs he hok, txFrame_emitFrame s hlen, toNat_emitFrame_txfLen s hlen, rfl⟩

/-! ### The form ENCODE chooses (R74, R100) -/

/-- R74: the chosen form can carry every payload ENCODE takes. -/
theorem payloadOk_chooseForm (dir : Direction) {pd : List Byte} (h : pd.length ≤ 65534) :
    payloadOk (dataFrame (chooseForm pd) dir pd) = true := by
  unfold chooseForm
  split
  · have hnorm : normalPayloadOk pd = true := decide_eq_true (by omega)
    cases dir <;> exact hnorm
  · have hext : extendedPayloadOk pd = true := decide_eq_true (by omega)
    cases dir <;> exact hext

/-- R100: the bytes of the chosen form, by the length of the payload. -/
theorem encode_chooseForm (c : Params) (dir : Direction) (pd : List Byte) :
    encode c (dataFrame (chooseForm pd) dir pd) =
      if 1 + pd.length ≤ 255 then normalBytes dir pd else extendedBytes c dir pd := by
  rw [encode_dataFrame, chooseForm]
  by_cases h : 1 + pd.length ≤ 255
  · rw [if_pos h, if_pos h]
  · rw [if_neg h, if_neg h]

/-- R100: within `MAX_PAYLOAD` the pure encoder gives the bytes of the chosen form. -/
theorem encodeFrame_of_le (c : Params) (dir : Direction) {pd : List Byte} (h : pd.length ≤ c.maxPayload) :
    encodeFrame c dir pd = some (encode c (dataFrame (chooseForm pd) dir pd)) :=
  if_neg (Nat.not_lt.mpr h)

/-- R22: the payload operand has `TXP_LEN` bytes. -/
@[simp] theorem length_txPayload (s : State) : s.txPayload.length = s.txpLen.toNat := Memory.length_prefixBytes _ _ _

/-! ### The step that starts ENCODE (R100) -/

theorem step_encode_of_gt {s : State} {rest : List HostAction} (hp : s.pending = .start .encode :: rest)
    (h : 65534 < s.txpLen.toNat) : step s = .next { s.refuseEncode with pending := rest } := by
  have hsel : select s .encode = .ends s.refuseEncode := if_pos h
  simp only [step_of_start hp, hsel, retire]

theorem step_encode_of_le {s : State} {rest : List HostAction} (hp : s.pending = .start .encode :: rest)
    (h : s.txpLen.toNat ≤ 65534) :
    step s = .next { s.emitFrame (encode Config.hardware (dataFrame (chooseForm s.txPayload) s.encDir s.txPayload)) with
      pending := rest } := by
  have hsel : select s .encode = .form (dataFrame (chooseForm s.txPayload) s.encDir s.txPayload) :=
    if_neg (Nat.not_lt.mpr h)
  have hok := payloadOk_chooseForm s.encDir (pd := s.txPayload) (by rwa [length_txPayload])
  simp only [step_of_start hp, hsel, exec_of_emitter (State.started_of_pending hp) (emitterOf_dataFrame _ _ _) hok, retire]

/-! ### R100, R101, R103, R104 -/

/-- R101: what ENCODE leaves on the ports for a Normal form of either direction, byte by byte. -/
theorem exec_normal_emits (dir : Direction) {s : State} {pd : List Byte} (hs : s.started = some .encode)
    (hpd : pd.length ≤ 254) :
    ∃ t, exec (dataFrame .normal dir pd) s = .next t ∧
      t.txFrame = normalHead dir pd ++ pd ++ [dcs (tfiOf dir) pd, postamble] ∧
      t.txfLen.toNat = 8 + pd.length ∧ t.encStatus = .done := by
  have hok : payloadOk (dataFrame .normal dir pd) = true := by
    cases dir <;> exact decide_eq_true hpd
  obtain ⟨t, ht, hf, hl, hd⟩ := exec_emits hs (emitterOf_dataFrame .normal dir pd) hok
  rw [encode_dataFrame] at hf hl
  exact ⟨t, ht, hf.trans (normalBytes_eq_head_append dir pd), hl.trans (length_normalBytes dir pd), hd⟩

/-- Settles O23: the two directions of the Normal form. -/
theorem normalFrameIsEmitted : Obligations.NormalFrameIsEmitted :=
  fun _ _ hs hpd => ⟨exec_normal_emits .h2c hs hpd, exec_normal_emits .c2h hs hpd⟩

/-- Settles O36: beyond `MAX_PAYLOAD` the step is the refusal, else it emits the bytes of the chosen form; both write the
encoder's result ports alone. -/
theorem encodeOperationWritesTheFrame : Obligations.EncodeOperationWritesTheFrame := by
  intro s hs
  obtain ⟨rest, hp⟩ := (s.started_eq_some_iff .encode).mp hs
  rcases Nat.lt_or_ge 65534 s.txpLen.toNat with hgt | hle
  · exact ⟨_, step_encode_of_gt hp hgt, rfl, fun _ => ⟨rfl, rfl, rfl⟩, fun h => absurd hgt (Nat.not_lt.mpr h)⟩
  · have hpd : s.txPayload.length ≤ 65534 := by rwa [length_txPayload]
    have hframe := txFrame_emitFrame s (length_encode_hardware_le (payloadOk_chooseForm s.encDir hpd))
    refine ⟨_, step_encode_of_le hp hle, rfl, fun h => absurd h (Nat.not_lt.mpr hle), fun _ => ⟨rfl, ?_, ?_, ?_⟩⟩
    · rw [← length_txPayload, ← encode_chooseForm]
      exact hframe
    · exact (Memory.length_prefixBytes _ _ _).symm
    · exact (encodeFrame_of_le _ _ hpd).trans (congrArg some hframe.symm)

/-- Settles O21: ENC.ACK emits the form ACK, whose bytes are `ACK_BYTES`. -/
theorem ackIsEmitted : Obligations.AckIsEmitted := by
  intro s hs
  obtain ⟨t, ht, hf, hl, hd⟩ := exec_emits (i := .ack) hs rfl rfl
  exact ⟨t, ht, hf, BitVec.eq_of_toNat_eq hl, hd⟩

/-- Settles O22: ENC.NACK emits the form NACK, whose bytes are `NACK_BYTES`. -/
theorem nackIsEmitted : Obligations.NackIsEmitted := by
  intro s hs
  obtain ⟨t, ht, hf, hl, hd⟩ := exec_emits (i := .nack) hs rfl rfl
  exact ⟨t, ht, hf, BitVec.eq_of_toNat_eq hl, hd⟩

end Sys2Proof.Proofs
end

section
/-! PROOFS. How the generic parse runs along a buffer (42_decode.md R120 to R133), and the round trip of R135: a frame begins
with a header that announces its length, the parse gets past that header whatever follows it, and then tests the body from the
TFI on. -/

namespace Sys2Proof.Proofs

open Sys2Proof.Machine

/-! ### The header of a data frame (R125 to R129) -/

/-- The lengths a form may announce: one byte that is not 0, or two bytes from 256 on (R62, R63). -/
def LengthFits : Form → Nat → Prop
  | .normal, len => 1 ≤ len ∧ len ≤ 255
  | .extended, len => 256 ≤ len ∧ len ≤ 65535

/-- The bytes before the TFI, for an announced length. -/
def dataHeader (c : Params) : Form → Nat → List Byte
  | .normal, len => envelopeBytes ++ [BitVec.ofNat 8 len, lcs8 (BitVec.ofNat 8 len)]
  | .extended, len => envelopeBytes ++ extMark ++ [hi8 len, lo8 len] ++ extLcs c.extLcsRule len

@[simp] theorem length_dataHeader (c : Params) (form : Form) (len : Nat) :
    (dataHeader c form len).length = match form with
      | .normal => 5
      | .extended => 7 + extLcsSize c.extLcsRule := by
  cases form with
  | normal => rfl
  | extended => simp [dataHeader, envelopeBytes, extMark]; omega

/-- R74: the chosen form can announce the length of every payload ENCODE takes. -/
theorem lengthFits_chooseForm {pd : List Byte} (h : pd.length ≤ 65534) : LengthFits (chooseForm pd) (1 + pd.length) := by
  unfold chooseForm
  split
  · exact ⟨by omega, by omega⟩
  · exact ⟨by omega, by omega⟩

/-- R74, R135: the boundary between the forms. -/
theorem chooseForm_eq (pd : List Byte) : chooseForm pd = if pd.length ≤ 254 then .normal else .extended := by
  rw [chooseForm]
  congr 1
  exact propext (by omega)

/-! ### Stage A (R121 to R123) -/

/-- R120: a buffer that is no fixed sequence goes to the generic parse. -/
theorem decodeFrame_of_ne {c : Params} {b : List Byte} (hack : b ≠ ackBytes) (hnack : b ≠ nackBytes)
    (herr : b ≠ c.errorBytes) : decodeFrame c b = genericParse c b := by
  rw [decodeFrame, if_neg hack, if_neg hnack, if_neg herr]

/-! ### Getting past the header -/

/-- R47: the byte after the first `front.length`. -/
theorem getByte_append_cons (front rest : List Byte) (v : Byte) : getByte (front ++ v :: rest) front.length = .ok v := by
  rw [getByte_eq_ok_iff, List.getElem?_append_right (Nat.le_refl _), Nat.sub_self]
  rfl

/-- R131: the run of bytes after the first `front.length`. -/
theorem getRun_append (front vs rest : List Byte) :
    getRun (front ++ (vs ++ rest)) front.length vs.length = .ok vs := by
  rw [getRun_eq_ok_iff, List.drop_left, List.take_left]
  exact ⟨rfl, rfl⟩

/-- R124, R125, R126: after the envelope, two bytes that are not `FF FF` select the Normal branch, which asks for nothing
more. -/
theorem genericParse_normal (c : Params) {len cks : Byte} (rest : List Byte) (h : ¬ (len = 0xFF ∧ cks = 0xFF)) :
    genericParse c (envelopeBytes ++ len :: cks :: rest) = (do
      let h ← parseNormalHeader len cks
      parseBody (envelopeBytes ++ len :: cks :: rest) h.1 h.2.1 h.2.2) := by
  have hhead : parseHeader c (envelopeBytes ++ len :: cks :: rest) = parseNormalHeader len cks := if_neg h
  rw [← hhead]
  rfl

/-- R124, R125, R128: after the envelope, `FF FF` selects the Extended branch. -/
theorem genericParse_extended (c : Params) (tail : List Byte) :
    genericParse c (envelopeBytes ++ extMark ++ tail) = (do
      let h ← parseExtendedHeader c (envelopeBytes ++ extMark ++ tail)
      parseBody (envelopeBytes ++ extMark ++ tail) h.1 h.2.1 h.2.2) := rfl

/-- R128: with the bytes of length and checksum there, what is left of the Extended header are its two checks. -/
theorem parseExtendedHeader_append (c : Params) (lenm lenl : Byte) {cks : List Byte} (rest : List Byte)
    (h : cks.length = extLcsSize c.extLcsRule) :
    parseExtendedHeader c (envelopeBytes ++ extMark ++ lenm :: lenl :: cks ++ rest) = (do
      require (extLcsOk c.extLcsRule lenm lenl cks)
        (.checksumMismatch .lcs16 (extLcsValue c.extLcsRule (extLcs c.extLcsRule (be16 lenm lenl)))
          (extLcsValue c.extLcsRule cks) 7)
      require (decide (256 ≤ be16 lenm lenl)) (.framingError .nonCanonicalLength 5 (.length (be16 lenm lenl)))
      pure (.extended, be16 lenm lenl, 7 + extLcsSize c.extLcsRule)) := by
  have hrun : getRun (envelopeBytes ++ extMark ++ lenm :: lenl :: cks ++ rest) 7 (extLcsSize c.extLcsRule) = .ok cks := by
    rw [← h]
    exact getRun_append (envelopeBytes ++ extMark ++ [lenm, lenl]) cks rest
  rw [parseExtendedHeader]
  simp only [hrun]
  rfl

/-- R91: the length byte `FF` has the checksum `01`, so no good Normal header is the extended marker. -/
theorem lcs8_not_extMark (len : Byte) : ¬ (len = 0xFF ∧ lcs8 len = 0xFF) := by
  rintro ⟨rfl, h⟩
  exact absurd h (by decide)

/-- R62: the length byte of a Normal frame is the announced length, and not 0. -/
theorem toNat_normalLength {len : Nat} (h : LengthFits .normal len) :
    (BitVec.ofNat 8 len).toNat = len ∧ BitVec.ofNat 8 len ≠ (0x00 : Byte) := by
  obtain ⟨hpos, hle⟩ := h
  have hlen : (BitVec.ofNat 8 len).toNat = len := by rw [BitVec.toNat_ofNat, Nat.mod_eq_of_lt (by omega)]
  refine ⟨hlen, fun hzero => ?_⟩
  rw [hzero] at hlen
  exact absurd hlen (Nat.ne_of_lt hpos)

/-- R125 to R129: the generic parse gets past a good header, whatever follows it. -/
theorem genericParse_dataHeader (c : Params) {form : Form} {len : Nat} (h : LengthFits form len) (tail : List Byte) :
    genericParse c (dataHeader c form len ++ tail) =
      parseBody (dataHeader c form len ++ tail) form len (dataHeader c form len).length := by
  rw [length_dataHeader]
  cases form with
  | normal =>
    obtain ⟨hlen, hne⟩ := toNat_normalLength h
    have hhead : parseNormalHeader (BitVec.ofNat 8 len) (lcs8 (BitVec.ofNat 8 len)) = .ok (.normal, len, 5) :=
      (parseNormalHeader_eq_ok_iff _ _ _).mpr ⟨rfl, hne, by rw [hlen]⟩
    have hparse := genericParse_normal c tail (lcs8_not_extMark (BitVec.ofNat 8 len))
    rw [hhead, ok_bind] at hparse
    exact hparse
  | extended =>
    obtain ⟨hge, hle⟩ := h
    have hjoin : be16 (hi8 len) (lo8 len) = len := be16_hi8_lo8 (by omega)
    have hok : extLcsOk c.extLcsRule (hi8 len) (lo8 len) (extLcs c.extLcsRule len) = true :=
      extLcsOk_extLcs _ (by omega)
    have hhead := parseExtendedHeader_append c (hi8 len) (lo8 len) tail (length_extLcs c.extLcsRule len)
    rw [hok, hjoin, decide_eq_true hge] at hhead
    have hparse := genericParse_extended c (hi8 len :: lo8 len :: extLcs c.extLcsRule len ++ tail)
    rw [← List.append_assoc, hhead] at hparse
    simpa [dataHeader, require] using hparse

/-- R64, R65: no buffer with a good header is ACK or NACK. -/
theorem dataHeader_append_ne_fixed (c : Params) {form : Form} {len : Nat} (h : LengthFits form len) (tail : List Byte) :
    dataHeader c form len ++ tail ≠ ackBytes ∧ dataHeader c form len ++ tail ≠ nackBytes := by
  cases form with
  | normal =>
    constructor <;> intro heq <;>
      simp only [dataHeader, envelopeBytes, ackBytes, nackBytes, List.cons_append, List.nil_append, List.cons.injEq,
        true_and] at heq
    · exact (toNat_normalLength h).2 heq.1
    · exact lcs8_not_extMark _ ⟨heq.1, heq.2.1⟩
  | extended =>
    have hlong : 6 < (dataHeader c .extended len ++ tail).length := by
      rw [List.length_append, length_dataHeader]
      dsimp only
      omega
    constructor <;> intro heq <;> rw [heq] at hlong <;> exact absurd hlong (by decide)

/-- R120, R125 to R129: DECODE of a buffer with a good header is the parse of its body, unless the buffer is the error
sequence. -/
theorem decodeFrame_dataHeader {c : Params} {form : Form} {len : Nat} {tail : List Byte} (h : LengthFits form len)
    (herr : dataHeader c form len ++ tail ≠ c.errorBytes) :
    decodeFrame c (dataHeader c form len ++ tail) =
      parseBody (dataHeader c form len ++ tail) form len (dataHeader c form len).length := by
  obtain ⟨hack, hnack⟩ := dataHeader_append_ne_fixed c h tail
  rw [decodeFrame_of_ne hack hnack herr, genericParse_dataHeader c h]

/-! ### The body (R130 to R133) -/

/-- R130: a byte that is no TFI ends the parse, whatever follows it. -/
theorem parseBody_of_badTfi (front rest : List Byte) {tfi : Byte} (form : Form) (len : Nat) (h : dirOf tfi = none) :
    parseBody (front ++ tfi :: rest) form len front.length = .error (.framingError .badTFI front.length (.byte tfi)) := by
  rw [parseBody, parseTfi, getByte_append_cons, ok_bind, h]
  rfl

/-- R130 to R132: with TFI, payload and a byte `d` after it there, what is left of the body is the check of `d` and the end of
the frame. -/
theorem parseBody_append (front : List Byte) (form : Form) (dir : Direction) (pd : List Byte) (d : Byte) (rest : List Byte) :
    parseBody (front ++ tfiOf dir :: pd ++ d :: rest) form (1 + pd.length) front.length = (do
      require (dcsOk (tfiOf dir) pd d)
        (.checksumMismatch .dcs (.byte (dcs (tfiOf dir) pd)) (.byte d) (front ++ tfiOf dir :: pd).length)
      checkEnd (front ++ tfiOf dir :: pd ++ d :: rest) ((front ++ tfiOf dir :: pd).length + 1)
      pure (dataFrame form dir pd)) := by
  have htfi : parseTfi (front ++ tfiOf dir :: pd ++ d :: rest) front.length = .ok dir := by
    rw [parseTfi_eq_ok_iff, List.append_assoc, List.getElem?_append_right (Nat.le_refl _), Nat.sub_self]
    rfl
  have hrun : getRun (front ++ tfiOf dir :: pd ++ d :: rest) (front.length + 1) pd.length = .ok pd := by
    simpa using getRun_append (front ++ [tfiOf dir]) pd (d :: rest)
  have hlen : (front ++ tfiOf dir :: pd).length = front.length + (1 + pd.length) := by
    rw [List.length_append, List.length_cons, Nat.add_comm 1]
  rw [parseBody, htfi, ok_bind, Nat.add_sub_cancel_left, hrun, ok_bind, ← hlen, getByte_append_cons, ok_bind]

/-- R133: the postamble as the last byte is the end of a frame. -/
theorem checkEnd_of_last (front : List Byte) : checkEnd (front ++ [postamble]) front.length = .ok () := by
  rw [checkEnd_eq_ok_iff, List.getElem?_append_right (Nat.le_refl _), Nat.sub_self, List.length_append]
  exact ⟨rfl, rfl⟩

/-! ### A data frame up to its data checksum -/

/-- The bytes of a data frame before its data checksum. -/
def dataBody (c : Params) (form : Form) (dir : Direction) (pd : List Byte) : List Byte :=
  dataHeader c form (1 + pd.length) ++ tfiOf dir :: pd

/-- R101, R102: a data frame ends with its data checksum and the postamble. -/
theorem encode_eq_dataBody_append (c : Params) (form : Form) (dir : Direction) (pd : List Byte) :
    encode c (dataFrame form dir pd) = dataBody c form dir pd ++ [dcs (tfiOf dir) pd, postamble] := by
  cases form <;> simp [normalBytes, extendedBytes, dataBody, dataHeader]

theorem length_encode_eq_dataBody (c : Params) (form : Form) (dir : Direction) (pd : List Byte) :
    (encode c (dataFrame form dir pd)).length = (dataBody c form dir pd).length + 2 := by
  rw [encode_eq_dataBody_append, List.length_append]
  rfl

/-- R130 to R133: DECODE of a data frame's bytes followed by a byte `d` and anything tests `d` as the data checksum, and then the
end of the frame. -/
theorem decodeFrame_dataBody {c : Params} {form : Form} {dir : Direction} {pd rest : List Byte} {d : Byte}
    (h : LengthFits form (1 + pd.length)) (herr : dataBody c form dir pd ++ d :: rest ≠ c.errorBytes) :
    decodeFrame c (dataBody c form dir pd ++ d :: rest) = (do
      require (dcsOk (tfiOf dir) pd d)
        (.checksumMismatch .dcs (.byte (dcs (tfiOf dir) pd)) (.byte d) (dataBody c form dir pd).length)
      checkEnd (dataBody c form dir pd ++ d :: rest) ((dataBody c form dir pd).length + 1)
      pure (dataFrame form dir pd)) := by
  rw [dataBody, List.append_assoc] at herr
  rw [dataBody, ← parseBody_append, List.append_assoc, decodeFrame_dataHeader h herr]

/-- R132: the right data checksum leaves the end of the frame to test. -/
theorem decodeFrame_dataBody_dcs {c : Params} {form : Form} {dir : Direction} {pd rest : List Byte}
    (h : LengthFits form (1 + pd.length))
    (herr : dataBody c form dir pd ++ dcs (tfiOf dir) pd :: rest ≠ c.errorBytes) :
    decodeFrame c (dataBody c form dir pd ++ dcs (tfiOf dir) pd :: rest) = (do
      checkEnd (dataBody c form dir pd ++ [dcs (tfiOf dir) pd] ++ rest) (dataBody c form dir pd ++ [dcs (tfiOf dir) pd]).length
      pure (dataFrame form dir pd)) := by
  rw [decodeFrame_dataBody h herr, (dcsOk_iff _ _ _).mpr rfl, List.append_assoc, List.length_append]
  rfl

/-! ### The round trip (R135) -/

/-- A data frame that is not the error sequence decodes to what was encoded. -/
theorem decodeFrame_encode_of_ne {c : Params} {form : Form} {dir : Direction} {pd : List Byte}
    (h : LengthFits form (1 + pd.length)) (herr : encode c (dataFrame form dir pd) ≠ c.errorBytes) :
    decodeFrame c (encode c (dataFrame form dir pd)) = .ok (dataFrame form dir pd) := by
  rw [encode_eq_dataBody_append] at herr ⊢
  rw [decodeFrame_dataBody_dcs h herr, checkEnd_of_last]
  rfl

/-- R8 (c): legal parameters keep every fixed sequence apart from every data frame, off the checksum bytes. -/
theorem differsOffChecksums_of_legal {c : Params} {seq : List Byte} (h : FixedSequenceLegal c seq) (dir : Direction)
    {pd : List Byte} (hpd : pd.length ≤ 65534) :
    DiffersOffChecksums (chooseForm pd) (extLcsSize c.extLcsRule) (encode c (dataFrame (chooseForm pd) dir pd)) seq := by
  obtain ⟨-, -, hnormal, hextended⟩ := h
  rw [encode_dataFrame, chooseForm]
  split
  · exact hnormal dir pd (by omega)
  · exact hextended dir pd (by omega) hpd

/-- R8 (c): what agrees with a data frame off its checksum bytes is, under legal parameters, no fixed sequence. -/
theorem ne_fixed_of_not_differsOffChecksums {c : Params} (hc : c.Legal) {dir : Direction} {pd b : List Byte}
    (hpd : pd.length ≤ 65534)
    (h : ¬ DiffersOffChecksums (chooseForm pd) (extLcsSize c.extLcsRule) (encode c (dataFrame (chooseForm pd) dir pd)) b) :
    b ≠ ackBytes ∧ b ≠ nackBytes ∧ b ≠ c.errorBytes := by
  obtain ⟨hack, hnack, herr, -⟩ := hc
  refine ⟨?_, ?_, ?_⟩ <;> rintro rfl
  · exact h (differsOffChecksums_of_legal hack dir hpd)
  · exact h (differsOffChecksums_of_legal hnack dir hpd)
  · exact h (differsOffChecksums_of_legal herr dir hpd)

theorem not_differsOffChecksums_self (form : Form) (k : Nat) (f : List Byte) : ¬ DiffersOffChecksums form k f f := by
  rintro (h | ⟨_, _, _, h⟩) <;> exact h rfl

/-- Settles O2: the operands within `MAX_PAYLOAD` give the frame of the chosen form, which decodes; the fixed sequences are
recognised by Stage A. -/
theorem decodeRecoversEncodeOperands : Obligations.DecodeRecoversEncodeOperands := by
  intro c hc
  refine ⟨fun dir pd hpd => ⟨_, encodeFrame_of_le c dir hpd, ?_⟩, rfl, rfl⟩
  have hle : pd.length ≤ 65534 := by
    obtain ⟨-, -, -, -, -, -, hmax⟩ := hc
    exact hpd.trans hmax
  obtain ⟨-, -, herr⟩ := ne_fixed_of_not_differsOffChecksums hc hle (not_differsOffChecksums_self _ _ _)
  rw [← chooseForm_eq, decodeFrame_encode_of_ne (lengthFits_chooseForm hle) herr]

end Sys2Proof.Proofs
end

section
/-! PROOFS. The order in which the decoder finds faults (42_decode.md R124 to R133): for each fault the buffer up to it is given
and what follows is arbitrary, so the error cannot depend on bytes that are asked for later. -/

namespace Sys2Proof.Proofs

open Sys2Proof.Machine

/-! ### The envelope (R124) -/

/-- R61, R121 to R123: under legal parameters every fixed sequence begins with the envelope, so a buffer that does not goes to
the generic parse, which raises what the envelope check raises. -/
theorem decodeFrame_of_checkEnvelope_error {c : Params} (hc : c.Legal) {b : List Byte} {e : ProtocolError}
    (h : checkEnvelope b = .error e) : decodeFrame c b = .error e := by
  have hne {seq : List Byte} (hseq : FixedSequenceLegal c seq) : b ≠ seq := by
    rintro rfl
    obtain ⟨⟨mid, hmid⟩, -⟩ := hseq
    have hok : checkEnvelope b = .ok () :=
      (checkEnvelope_eq_ok_iff b ()).mpr ⟨mid ++ [postamble], hmid.trans (List.append_assoc _ _ _)⟩
    rw [h] at hok
    cases hok
  obtain ⟨hack, hnack, herr, -⟩ := hc
  rw [decodeFrame_of_ne (hne hack) (hne hnack) (hne herr), genericParse, h]
  rfl

/-- A check that fails ends the parse, whatever comes after it. -/
theorem require_bind_of_false {α : Type} {holds : Bool} (h : holds = false) (e : ProtocolError)
    (f : Unit → Except ProtocolError α) : (require holds e >>= f) = .error e := by
  rw [h]
  rfl

/-- Settles O10: in each clause the envelope check stops at the first byte that is missing or wrong. -/
theorem envelopeIsCheckedByteByByte : Obligations.EnvelopeIsCheckedByteByByte := by
  intro c hc
  refine ⟨?_, fun x rest hx => ?_, ?_, fun x rest hx => ?_, ?_, fun x rest hx => ?_⟩ <;>
    refine decodeFrame_of_checkEnvelope_error hc ?_
  · rfl
  · change (require (x == 0x00) _ >>= _) = _
    exact require_bind_of_false (beq_eq_false_iff_ne.mpr hx) _ _
  · rfl
  · change (require (x == 0x00) _ >>= _) = _
    exact require_bind_of_false (beq_eq_false_iff_ne.mpr hx) _ _
  · rfl
  · exact (require_eq_error_iff (x == 0xFF) _ _).mpr ⟨beq_eq_false_iff_ne.mpr hx, rfl⟩

/-! ### The length of a Normal frame (R126, R127) -/

/-- R120, R125: after the envelope, a buffer in the Normal branch that is neither ACK nor the error sequence is judged by its
header first. -/
theorem decodeFrame_of_normalHeader_error {c : Params} {len cks : Byte} {rest : List Byte} {e : ProtocolError}
    (hack : envelopeBytes ++ len :: cks :: rest ≠ ackBytes) (herr : envelopeBytes ++ len :: cks :: rest ≠ c.errorBytes)
    (hmark : ¬ (len = 0xFF ∧ cks = 0xFF)) (h : parseNormalHeader len cks = .error e) :
    decodeFrame c (envelopeBytes ++ len :: cks :: rest) = .error e := by
  have hnack : envelopeBytes ++ len :: cks :: rest ≠ nackBytes := fun heq => by
    simp only [envelopeBytes, nackBytes, List.cons_append, List.nil_append, List.cons.injEq, true_and] at heq
    exact hmark ⟨heq.1, heq.2.1⟩
  rw [decodeFrame_of_ne hack hnack herr, genericParse_normal c rest hmark, h, error_bind]

/-- Settles O11: the two checks of the Normal header, in order. -/
theorem normalLengthErrorsComeFirst : Obligations.NormalLengthErrorsComeFirst := by
  intro c len cks rest b hack herr hmark
  refine ⟨fun hsum => ?_, fun hsum hzero => ?_⟩
  · have hbad : lcsOk len cks = false := decide_eq_false hsum
    refine decodeFrame_of_normalHeader_error hack herr hmark ?_
    rw [parseNormalHeader, hbad]
    rfl
  · have hgood : lcsOk len cks = true := decide_eq_true hsum
    subst hzero
    refine decodeFrame_of_normalHeader_error hack herr hmark ?_
    rw [parseNormalHeader, hgood]
    rfl

/-! ### The length of an Extended frame (R128, R129) -/

/-- R120, R125: after the envelope and the extended marker, a buffer that is no fixed sequence is judged by its header first. -/
theorem decodeFrame_of_extendedHeader_error {c : Params} {tail : List Byte} {e : ProtocolError}
    (hnack : envelopeBytes ++ extMark ++ tail ≠ nackBytes) (herr : envelopeBytes ++ extMark ++ tail ≠ c.errorBytes)
    (h : parseExtendedHeader c (envelopeBytes ++ extMark ++ tail) = .error e) :
    decodeFrame c (envelopeBytes ++ extMark ++ tail) = .error e := by
  have hack : envelopeBytes ++ extMark ++ tail ≠ ackBytes := by simp [envelopeBytes, extMark, ackBytes]
  rw [decodeFrame_of_ne hack hnack herr, genericParse_extended, h, error_bind]

/-- R47, R131: an Extended header that is cut off is a short read at the end of the buffer. -/
theorem parseExtendedHeader_of_short (c : Params) {tail : List Byte} (h : tail.length < 2 + extLcsSize c.extLcsRule) :
    parseExtendedHeader c (envelopeBytes ++ extMark ++ tail) = .error (.shortRead (5 + tail.length) (5 + tail.length)) := by
  match tail, h with
  | [], _ => rfl
  | [_], _ => rfl
  | lenm :: lenl :: cks, h =>
    have hshort : getRun (envelopeBytes ++ extMark ++ lenm :: lenl :: cks) 7 (extLcsSize c.extLcsRule) =
        .error (.shortRead (5 + (lenm :: lenl :: cks).length) (5 + (lenm :: lenl :: cks).length)) := by
      rw [List.length_cons, List.length_cons] at h
      rw [getRun_eq_error_iff]
      simp [envelopeBytes, extMark]
      omega
    rw [parseExtendedHeader]
    simp only [hshort]
    rfl

/-- Settles O12: a header that is cut off, then the two checks of a header that is there. -/
theorem extendedLengthErrorsComeFirst : Obligations.ExtendedLengthErrorsComeFirst := by
  intro c
  constructor
  · intro tail hshort b hnack herr
    exact decodeFrame_of_extendedHeader_error hnack herr (parseExtendedHeader_of_short c hshort)
  intro lenm lenl cks rest hcks b r herr
  have hhead := parseExtendedHeader_append c lenm lenl rest hcks
  have hb : b = envelopeBytes ++ extMark ++ (lenm :: lenl :: cks ++ rest) := List.append_assoc _ _ _
  have hnack : b ≠ nackBytes := fun heq => by simpa [b, envelopeBytes, extMark, nackBytes] using congrArg List.length heq
  change parseExtendedHeader c b = _ at hhead
  rw [hb] at hhead hnack herr ⊢
  refine ⟨fun hne => ?_, fun heq hlt => ?_⟩ <;> refine decodeFrame_of_extendedHeader_error hnack herr (hhead.trans ?_)
  · have hbad : extLcsOk c.extLcsRule lenm lenl cks = false := decide_eq_false hne
    rw [hbad]
    rfl
  · have hgood : extLcsOk c.extLcsRule lenm lenl cks = true := decide_eq_true heq
    rw [hgood, decide_eq_false (Nat.not_le.mpr hlt)]
    rfl

/-! ### The TFI (R130) -/

/-- R71: only the two TFI values are directions. -/
theorem dirOf_eq_none {tfi : Byte} (h4 : tfi ≠ 0xD4) (h5 : tfi ≠ 0xD5) : dirOf tfi = none := by
  rw [dirOf, if_neg h4, if_neg h5]

/-- R130: a byte that is no TFI is reported right after a good header, whatever follows it. -/
theorem decodeFrame_of_badTfi {c : Params} {form : Form} {len : Nat} {tfi : Byte} {rest : List Byte}
    (hlen : LengthFits form len) (htfi : dirOf tfi = none) (herr : dataHeader c form len ++ tfi :: rest ≠ c.errorBytes) :
    decodeFrame c (dataHeader c form len ++ tfi :: rest) =
      .error (.framingError .badTFI (dataHeader c form len).length (.byte tfi)) := by
  rw [decodeFrame_dataHeader hlen herr, parseBody_of_badTfi _ _ _ _ htfi]

/-- Settles O13: a length byte other than 0, and a length from 256 on, each announce a good header. -/
theorem badTfiWinsOverWhatFollows : Obligations.BadTfiWinsOverWhatFollows := by
  intro c tfi rest h4 h5
  have htfi := dirOf_eq_none h4 h5
  constructor
  · intro len hne b herr
    have hpos : len.toNat ≠ 0 := fun h => hne (BitVec.eq_of_toNat_eq h)
    have hfits : LengthFits .normal len.toNat := ⟨by omega, Nat.le_of_lt_succ len.isLt⟩
    have hb : b = dataHeader c .normal len.toNat ++ tfi :: rest := by simp [b, dataHeader]
    rw [hb] at herr ⊢
    exact decodeFrame_of_badTfi hfits htfi herr
  · intro len hge hlt b herr
    have hfits : LengthFits .extended len := ⟨hge, Nat.le_of_lt_succ hlt⟩
    have hb : b = dataHeader c .extended len ++ tfi :: rest := by simp [b, dataHeader]
    rw [hb] at herr ⊢
    rw [decodeFrame_of_badTfi hfits htfi herr, length_dataHeader]

/-! ### Data checksum, postamble, end of the buffer (R132, R133) -/

/-- R133: a byte other than `00` at the postamble's offset, whatever follows it. -/
theorem checkEnd_of_ne_postamble (front rest : List Byte) {p : Byte} (h : p ≠ postamble) :
    checkEnd (front ++ p :: rest) front.length = .error (.framingError .badPostamble front.length (.byte p)) := by
  rw [checkEnd, getByte_append_cons, ok_bind]
  exact require_bind_of_false (beq_eq_false_iff_ne.mpr h) _ _

/-- R133: a byte after the postamble. -/
theorem checkEnd_of_trailing (front rest : List Byte) (x : Byte) :
    checkEnd (front ++ postamble :: x :: rest) front.length =
      .error (.framingError .trailingBytes (front.length + 1) (.byte x)) := by
  have hnext : (front ++ postamble :: x :: rest)[front.length + 1]? = some x := by simp
  rw [checkEnd, getByte_append_cons, ok_bind, hnext]
  rfl

/-- R132: a wrong data checksum is reported, whatever follows it. -/
theorem decodeFrame_of_ne_dcs {c : Params} {form : Form} {dir : Direction} {pd rest : List Byte} {d : Byte}
    (h : LengthFits form (1 + pd.length)) (hd : d ≠ dcs (tfiOf dir) pd)
    (herr : dataBody c form dir pd ++ d :: rest ≠ c.errorBytes) :
    decodeFrame c (dataBody c form dir pd ++ d :: rest) = .error
      (.checksumMismatch .dcs (.byte (dcs (tfiOf dir) pd)) (.byte d) (dataBody c form dir pd).length) := by
  have hbad : dcsOk (tfiOf dir) pd d = false := Bool.eq_false_iff.mpr fun e => hd ((dcsOk_iff _ _ _).mp e)
  rw [decodeFrame_dataBody h herr, require_bind_of_false hbad]

/-- Settles O14: what stands after the bytes up to the data checksum is tested byte by byte. -/
theorem tailErrorsComeInOrder : Obligations.TailErrorsComeInOrder := by
  intro c dir pd rest x hpd f n body d
  have hfits := lengthFits_chooseForm hpd
  have hn : n = (dataBody c (chooseForm pd) dir pd).length + 2 := length_encode_eq_dataBody _ _ _ _
  have hf : f = dataBody c (chooseForm pd) dir pd ++ [d, postamble] := encode_eq_dataBody_append _ _ _ _
  have hbody : body = dataBody c (chooseForm pd) dir pd := by
    simp only [body, hf, hn, Nat.add_sub_cancel, List.take_left]
  have hlast : n - 1 = (dataBody c (chooseForm pd) dir pd ++ [d]).length := by rw [hn, List.length_append]; rfl
  rw [hbody]
  refine ⟨fun hx herr => ?_, fun hx herr => ?_, fun herr => ?_⟩
  · rw [decodeFrame_of_ne_dcs hfits hx herr, hn, Nat.add_sub_cancel]
  · rw [decodeFrame_dataBody_dcs hfits herr, checkEnd_of_ne_postamble _ _ hx, hlast]
    rfl
  · have hsplit : f ++ x :: rest = dataBody c (chooseForm pd) dir pd ++ d :: postamble :: x :: rest := by simp [hf]
    rw [hsplit] at herr ⊢
    rw [decodeFrame_dataBody_dcs hfits herr, checkEnd_of_trailing, ← hlast, hn]
    rfl

end Sys2Proof.Proofs
end

section
/-! PROOFS. One flipped bit of a checksum byte (42_decode.md R136). Legal parameters keep the changed frame apart from the fixed
sequences, so it goes to the generic parse, which reports the checksum whatever follows it: each of the three cases is one of the
error clauses of R126, R129 and R132. -/

namespace Sys2Proof.Proofs

open Sys2Proof.Machine

/-- A flipped bit is another byte. -/
theorem xor_twoPow_ne_self (v : Byte) {bit : Nat} (h : bit < 8) : v ^^^ BitVec.twoPow 8 bit ≠ v := fun heq => by
  have hbit := congrArg (BitVec.getLsbD · bit) heq
  simp [h] at hbit

/-- R91: no single bit turns the length checksum of `FF` into the second byte of the extended marker. -/
theorem lcs8_xor_not_extMark (len : Byte) {bit : Nat} (h : bit < 8) :
    ¬ (len = 0xFF ∧ lcs8 len ^^^ BitVec.twoPow 8 bit = 0xFF) := by
  rintro ⟨rfl, hmark⟩
  have hnone : ∀ bit < 8, lcs8 0xFF ^^^ BitVec.twoPow 8 bit ≠ 0xFF := by decide
  exact hnone bit h hmark

/-- R62: the checksum bytes of a Normal frame. -/
theorem isChecksumOffset_normal_iff (k total i : Nat) :
    isChecksumOffset .normal k total i = true ↔ i = 4 ∨ i + 2 = total := by
  simp [isChecksumOffset]

/-- R63: the checksum bytes of an Extended frame. -/
theorem isChecksumOffset_extended_iff (k total i : Nat) :
    isChecksumOffset .extended k total i = true ↔ (7 ≤ i ∧ i < 7 + k) ∨ i + 2 = total := by
  simp [isChecksumOffset]

/-- R8 (c): a change of a checksum byte is no difference off the checksum bytes. -/
theorem not_differsOffChecksums_set {form : Form} {k at_ : Nat} {f : List Byte}
    (h : isChecksumOffset form k f.length at_ = true) (v : Byte) : ¬ DiffersOffChecksums form k f (f.set at_ v) := by
  rintro (hlen | ⟨i, -, hoff, hne⟩)
  · exact hlen List.length_set
  · have hi : at_ ≠ i := by
      rintro rfl
      rw [h] at hoff
      cases hoff
    exact hne (List.getElem?_set_ne hi)

/-- R132: another data checksum. -/
theorem decodeFrame_set_dcs {c : Params} {form : Form} {dir : Direction} {pd : List Byte} {at_ : Nat} {v w : Byte}
    (hfits : LengthFits form (1 + pd.length)) (hend : at_ + 2 = (encode c (dataFrame form dir pd)).length)
    (hv : (encode c (dataFrame form dir pd))[at_]? = some v) (hw : w ≠ v)
    (herr : (encode c (dataFrame form dir pd)).set at_ w ≠ c.errorBytes) :
    decodeFrame c ((encode c (dataFrame form dir pd)).set at_ w) =
      .error (.checksumMismatch .dcs (.byte v) (.byte w) at_) := by
  obtain rfl : at_ = (dataBody c form dir pd).length := by
    rw [length_encode_eq_dataBody] at hend
    exact Nat.add_right_cancel hend
  rw [encode_eq_dataBody_append] at hv herr ⊢
  obtain rfl : dcs (tfiOf dir) pd = v := by simpa using hv
  simp only [List.set_append_right _ _ (Nat.le_refl _), Nat.sub_self, List.set_cons_zero] at herr ⊢
  exact decodeFrame_of_ne_dcs hfits hw herr

/-- R126: another length checksum of a Normal frame, unless length and checksum become the extended marker. -/
theorem decodeFrame_set_lcs {c : Params} {dir : Direction} {pd : List Byte} {w : Byte}
    (hw : w ≠ lcs8 (BitVec.ofNat 8 (1 + pd.length))) (hmark : ¬ (BitVec.ofNat 8 (1 + pd.length) = (0xFF : Byte) ∧ w = 0xFF))
    (hack : (normalBytes dir pd).set 4 w ≠ ackBytes) (herr : (normalBytes dir pd).set 4 w ≠ c.errorBytes) :
    decodeFrame c ((normalBytes dir pd).set 4 w) = .error (.checksumMismatch .lcs
      (.byte (lcs8 (BitVec.ofNat 8 (1 + pd.length)))) (.byte w) 4) := by
  have hsum : ((BitVec.ofNat 8 (1 + pd.length) : Byte).toNat + w.toNat) % 256 ≠ 0 :=
    fun h => hw ((lcsOk_iff _ _).mp (decide_eq_true h))
  exact (normalLengthErrorsComeFirst c _ w (tfiOf dir :: (pd ++ [dcs (tfiOf dir) pd] ++ [postamble])) hack herr hmark).1 hsum

/-- R129: another length checksum of an Extended frame, in any of its bytes. -/
theorem decodeFrame_set_lcs16 {c : Params} {dir : Direction} {pd : List Byte} {j : Nat} {v w : Byte}
    (hpd : pd.length ≤ 65534) (hj : j < extLcsSize c.extLcsRule) (hv : (extendedBytes c dir pd)[7 + j]? = some v)
    (hw : w ≠ v) (herr : (extendedBytes c dir pd).set (7 + j) w ≠ c.errorBytes) :
    decodeFrame c ((extendedBytes c dir pd).set (7 + j) w) = .error (.checksumMismatch .lcs16
      (extLcsValue c.extLcsRule (extLcs c.extLcsRule (1 + pd.length)))
      (extLcsValue c.extLcsRule ((extLcs c.extLcsRule (1 + pd.length)).set j w)) 7) := by
  have hin : j < (extLcs c.extLcsRule (1 + pd.length)).length := by rwa [length_extLcs]
  have hat : (extendedHead pd).length + j = 7 + j := by rw [length_extendedHead]
  rw [extendedBytes_eq_head_append, List.append_assoc, List.append_assoc, List.append_assoc, ← hat] at hv herr ⊢
  rw [List.getElem?_append_right (Nat.le_add_right _ _), Nat.add_sub_cancel_left, List.getElem?_append_left hin] at hv
  rw [List.set_append_right _ _ (Nat.le_add_right _ _), Nat.add_sub_cancel_left, List.set_append_left _ _ hin,
    ← List.append_assoc] at herr ⊢
  have hne : (extLcs c.extLcsRule (1 + pd.length)).set j w ≠ extLcs c.extLcsRule (1 + pd.length) := fun heq => by
    rw [← heq, List.getElem?_set_self hin] at hv
    exact hw (Option.some.inj hv)
  have hjoin : be16 (hi8 (1 + pd.length)) (lo8 (1 + pd.length)) = 1 + pd.length := be16_hi8_lo8 (by omega)
  have hclause := (extendedLengthErrorsComeFirst c).2 (hi8 (1 + pd.length)) (lo8 (1 + pd.length))
    ((extLcs c.extLcsRule (1 + pd.length)).set j w) _ (by rw [List.length_set, length_extLcs]) herr
  rw [hjoin] at hclause
  exact hclause.1 hne

/-- Settles O5: the data checksum of either form, and the length checksum of each. -/
theorem flippedChecksumBitIsMismatch : Obligations.FlippedChecksumBitIsMismatch := by
  intro c dir pd at_ bit v hc hpd hbit f hv hoff
  obtain ⟨hack, -, herr⟩ := ne_fixed_of_not_differsOffChecksums hc hpd
    (not_differsOffChecksums_set hoff (v ^^^ BitVec.twoPow 8 bit))
  have hflip := xor_twoPow_ne_self v hbit
  by_cases hend : at_ + 2 = f.length
  · rw [if_pos hend]
    exact ⟨_, _, _, decodeFrame_set_dcs (lengthFits_chooseForm hpd) hend hv hflip herr⟩
  rw [if_neg hend]
  have hf : f = encode c (dataFrame (chooseForm pd) dir pd) := rfl
  clear_value f
  cases hform : chooseForm pd with
  | normal =>
    rw [hform, encode_dataFrame] at hf
    subst hf
    rw [hform] at hoff
    obtain rfl : at_ = 4 := ((isChecksumOffset_normal_iff _ _ _).mp hoff).resolve_right hend
    obtain rfl : lcs8 (BitVec.ofNat 8 (1 + pd.length)) = v := Option.some.inj hv
    exact ⟨_, _, _, decodeFrame_set_lcs hflip (lcs8_xor_not_extMark _ hbit) hack herr⟩
  | extended =>
    rw [hform, encode_dataFrame] at hf
    subst hf
    rw [hform] at hoff
    obtain ⟨hge, hlt⟩ := ((isChecksumOffset_extended_iff _ _ _).mp hoff).resolve_right hend
    obtain ⟨j, rfl⟩ := Nat.exists_eq_add_of_le hge
    exact ⟨_, _, _, decodeFrame_set_lcs16 hpd (Nat.lt_of_add_lt_add_left hlt) hv hflip herr⟩

end Sys2Proof.Proofs
end

section
/-! PROOFS. What DECODE writes (42_decode.md R134). Two facts about the pure decoder carry it to the ports: a form it recognises
has a payload the form can carry, so `exec` receives it and `RXP_LEN` counts it; an error it raises has information fields. -/

namespace Sys2Proof.Proofs

open Sys2Proof.Machine

/-! ### Recognised forms carry payloads that fit (R62, R63) -/

/-- R126 to R129: a header that parses announces a length that fits its form. -/
theorem lengthFits_of_parseHeader {c : Params} {b : List Byte} {h : Form × Nat × Nat} (hok : parseHeader c b = .ok h) :
    LengthFits h.1 h.2.1 := by
  obtain ⟨s0, -, hok⟩ := (bind_eq_ok_iff _ _ _).mp hok
  obtain ⟨s1, -, hok⟩ := (bind_eq_ok_iff _ _ _).mp hok
  split at hok
  · obtain ⟨lenm, lenl, -, -, -, hge, rfl⟩ := (parseExtendedHeader_eq_ok_iff _ _ _).mp hok
    exact ⟨hge, Nat.le_of_lt_succ (be16_lt lenm lenl)⟩
  · obtain ⟨-, hne, rfl⟩ := (parseNormalHeader_eq_ok_iff _ _ _).mp hok
    have hpos : s0.toNat ≠ 0 := fun h => hne (BitVec.eq_of_toNat_eq h)
    exact ⟨Nat.pos_of_ne_zero hpos, Nat.le_of_lt_succ s0.isLt⟩

/-- R62, R63: the payload of a form with a length that fits. -/
theorem payloadOk_dataFrame {form : Form} {len : Nat} (dir : Direction) {pd : List Byte} (h : LengthFits form len)
    (hpd : pd.length = len - 1) : payloadOk (dataFrame form dir pd) = true := by
  cases form with
  | normal =>
    obtain ⟨-, hle⟩ := h
    have hok : normalPayloadOk pd = true := decide_eq_true (by omega)
    cases dir <;> exact hok
  | extended =>
    obtain ⟨hge, hle⟩ := h
    have hok : extendedPayloadOk pd = true := decide_eq_true (by omega)
    cases dir <;> exact hok

/-- R134: what DECODE recognises can be received. -/
theorem payloadOk_of_decodeFrame {c : Params} {b : List Byte} {i : Instr} (h : decodeFrame c b = .ok i) :
    payloadOk i = true := by
  unfold decodeFrame at h
  split at h
  · cases h; rfl
  split at h
  · cases h; rfl
  split at h
  · cases h; rfl
  obtain ⟨_, -, h⟩ := (bind_eq_ok_iff _ _ _).mp h
  obtain ⟨header, hheader, hbody⟩ := (bind_eq_ok_iff _ _ _).mp h
  obtain ⟨dir, pd, -, -, hlen, -, -, -, rfl⟩ := (parseBody_eq_ok_iff _ _ _ _ _).mp hbody
  exact payloadOk_dataFrame dir (lengthFits_of_parseHeader hheader) hlen

/-! ### Errors of DECODE carry information (R162, R163) -/

/-- Every error that a part of the parse can raise has information fields. -/
def RaisesInformed {α : Type} (x : Except ProtocolError α) : Prop := ∀ e, x = .error e → ∃ info, errorInfo e = some info

theorem RaisesInformed.ok {α : Type} (a : α) : RaisesInformed (.ok a) := fun _ h => by cases h

theorem RaisesInformed.bind {α β : Type} {x : Except ProtocolError α} {f : α → Except ProtocolError β}
    (hx : RaisesInformed x) (hf : ∀ a, RaisesInformed (f a)) : RaisesInformed (x >>= f) := by
  intro e h
  rcases (bind_eq_error_iff x f e).mp h with h | ⟨a, -, h⟩
  · exact hx e h
  · exact hf a e h

theorem RaisesInformed.error {α : Type} {e : ProtocolError} {info : ErrorInfo} (h : errorInfo e = some info) :
    RaisesInformed (.error e : Except ProtocolError α) := fun e' heq => by
  cases heq
  exact ⟨info, h⟩

theorem RaisesInformed.require (holds : Bool) {e : ProtocolError} {info : ErrorInfo} (h : errorInfo e = some info) :
    RaisesInformed (require holds e) := by
  cases holds with
  | true => exact .ok ()
  | false => exact .error h

/-- R166: a short read has its position and the length of the buffer. -/
theorem raisesInformed_getByte (b : List Byte) (i : Nat) : RaisesInformed (getByte b i) := by
  intro e h
  obtain ⟨-, rfl⟩ := (getByte_eq_error_iff b i e).mp h
  exact ⟨_, rfl⟩

theorem raisesInformed_getRun (b : List Byte) (start n : Nat) : RaisesInformed (getRun b start n) := by
  intro e h
  obtain ⟨-, -, rfl⟩ := (getRun_eq_error_iff b start n e).mp h
  exact ⟨_, rfl⟩

theorem raisesInformed_checkEnvelope (b : List Byte) : RaisesInformed (checkEnvelope b) :=
  (raisesInformed_getByte b 0).bind fun _ => (RaisesInformed.require _ rfl).bind fun _ =>
    (raisesInformed_getByte b 1).bind fun _ => (RaisesInformed.require _ rfl).bind fun _ =>
      (raisesInformed_getByte b 2).bind fun _ => .require _ rfl

theorem raisesInformed_parseHeader (c : Params) (b : List Byte) : RaisesInformed (parseHeader c b) := by
  refine (raisesInformed_getByte b 3).bind fun s0 => (raisesInformed_getByte b 4).bind fun s1 => ?_
  split
  · exact (raisesInformed_getByte b 5).bind fun _ => (raisesInformed_getByte b 6).bind fun _ =>
      (raisesInformed_getRun b 7 _).bind fun _ => (RaisesInformed.require _ rfl).bind fun _ =>
        (RaisesInformed.require _ rfl).bind fun _ => .ok _
  · exact (RaisesInformed.require _ rfl).bind fun _ => (RaisesInformed.require _ rfl).bind fun _ => .ok _

theorem raisesInformed_parseTfi (b : List Byte) (base : Nat) : RaisesInformed (parseTfi b base) := by
  refine (raisesInformed_getByte b base).bind fun tfi => ?_
  split
  · exact .ok _
  · exact .error rfl

theorem raisesInformed_checkEnd (b : List Byte) (at_ : Nat) : RaisesInformed (checkEnd b at_) := by
  refine (raisesInformed_getByte b at_).bind fun _ => (RaisesInformed.require _ rfl).bind fun _ => ?_
  split
  · exact .ok ()
  · exact .error rfl

theorem raisesInformed_parseBody (b : List Byte) (form : Form) (len base : Nat) :
    RaisesInformed (parseBody b form len base) :=
  (raisesInformed_parseTfi b base).bind fun _ => (raisesInformed_getRun b _ _).bind fun _ =>
    (raisesInformed_getByte b _).bind fun _ => (RaisesInformed.require _ rfl).bind fun _ =>
      (raisesInformed_checkEnd b _).bind fun _ => .ok _

/-- R162: an error of DECODE is one of those that have information fields. -/
theorem raisesInformed_decodeFrame (c : Params) (b : List Byte) : RaisesInformed (decodeFrame c b) := by
  unfold decodeFrame
  split
  · exact .ok _
  split
  · exact .ok _
  split
  · exact .ok _
  exact (raisesInformed_checkEnvelope b).bind fun _ => (raisesInformed_parseHeader c b).bind fun _ =>
    raisesInformed_parseBody b _ _ _

/-! ### The step that starts DECODE (R134) -/

theorem step_decode_of_ok {s : State} {rest : List HostAction} {i : Instr} (hp : s.pending = .start .decode :: rest)
    (h : decodeFrame Config.hardware s.rxFrame = .ok i) : step s = .next { s.receive i with pending := rest } := by
  have hsel : select s .decode = .form i := by
    simp only [select, selectDecode, h]
  have hexec : exec i s = .next (s.receive i) :=
    (exec_eq_next_iff i s _).mpr (Or.inl ⟨State.started_of_pending hp, payloadOk_of_decodeFrame h, rfl⟩)
  simp only [step_of_start hp, hsel, hexec, retire]

theorem step_decode_of_error {s : State} {rest : List HostAction} {e : ProtocolError}
    (hp : s.pending = .start .decode :: rest) (h : decodeFrame Config.hardware s.rxFrame = .error e) :
    step s = .next { s.raiseError e with pending := rest } := by
  have hsel : select s .decode = .ends (s.raiseError e) := by
    simp only [select, selectDecode, h]
  simp only [step_of_start hp, hsel, retire]

theorem length_le_of_normalPayloadOk {pd : List Byte} (h : normalPayloadOk pd = true) : pd.length ≤ 65534 :=
  (of_decide_eq_true h).trans (by decide)

theorem length_le_of_extendedPayloadOk {pd : List Byte} (h : extendedPayloadOk pd = true) : pd.length ≤ 65534 :=
  (of_decide_eq_true h).2

/-- R48, R134: after a data frame is returned, the ports hold its kind and direction, no error, its payload and its length. -/
theorem returnData_ports (s : State) (kind : DecKind) (dir : Direction) {pd : List Byte} (h : pd.length ≤ 65534) :
    (s.returnData kind dir pd).decKind = kind ∧ (s.returnData kind dir pd).decErr = .none ∧
      (s.returnData kind dir pd).decDir = dir ∧ (s.returnData kind dir pd).rxPayload = pd ∧
      (s.returnData kind dir pd).rxpLen.toNat = pd.length := by
  have hlen : (s.returnData kind dir pd).rxpLen.toNat = pd.length := by
    rw [State.returnData_rxpLen, BitVec.toNat_ofNat, Nat.mod_eq_of_lt (by omega)]
  refine ⟨rfl, rfl, rfl, ?_, hlen⟩
  rw [State.rxPayload, hlen, State.returnData_rxp, Memory.prefixBytes_writeRun]

/-- Settles O38: the step receives the form or raises the error that the pure decoder gives. -/
theorem decodeOperationWritesItsResult : Obligations.DecodeOperationWritesItsResult := by
  intro s hs
  obtain ⟨rest, hp⟩ := (s.started_eq_some_iff .decode).mp hs
  cases h : decodeFrame Config.hardware s.rxFrame with
  | error e =>
    obtain ⟨info, hinfo⟩ := raisesInformed_decodeFrame _ _ e h
    refine ⟨_, step_decode_of_error hp h, rfl, rfl, rfl, ?_, rfl, rfl⟩
    simp [hinfo]
  | ok i =>
    refine ⟨_, step_decode_of_ok hp h, ?_⟩
    have hok := payloadOk_of_decodeFrame h
    cases i with
    | ack => exact ⟨rfl, rfl, rfl, rfl, rfl⟩
    | nack => exact ⟨rfl, rfl, rfl, rfl, rfl⟩
    | error status => exact ⟨rfl, rfl, rfl, rfl, rfl, rfl⟩
    | extendedH2C pd => exact ⟨rfl, returnData_ports s .extended .h2c (length_le_of_extendedPayloadOk hok)⟩
    | extendedC2H pd => exact ⟨rfl, returnData_ports s .extended .c2h (length_le_of_extendedPayloadOk hok)⟩
    | normalH2C pd => exact ⟨rfl, returnData_ports s .normal .h2c (length_le_of_normalPayloadOk hok)⟩
    | normalC2H pd => exact ⟨rfl, returnData_ports s .normal .c2h (length_le_of_normalPayloadOk hok)⟩

end Sys2Proof.Proofs
end

section
/-! PROOFS. What DISPATCH reports (43_dispatch.md R150 to R156). `exec` of any form under DISPATCH is the announcement of its
event; an error that DECODE has left on the ports is announced as a rejection. An error with information fields, and DECODE
raises no other, is one of the framing level. -/

namespace Sys2Proof.Proofs

open Sys2Proof.Machine

/-! ### Reporting a form or an error (R150 to R155) -/

/-- R151 to R154: under DISPATCH every form, with whatever payload, is reported by its event. -/
theorem exec_of_dispatch (i : Instr) {s : State} (hs : s.started = some .dispatch) :
    exec i s = .next (s.announce (eventOfFrame i)) :=
  (exec_eq_next_iff i s _).mpr (Or.inr (Or.inl ⟨hs, rfl⟩))

/-- R155: the step that starts DISPATCH on an error. -/
theorem step_dispatch_of_raised {s : State} {rest : List HostAction} {name : ErrorName}
    (hp : s.pending = .start .dispatch :: rest) (hk : s.decKind = .none) (he : s.decErr = .raised name) :
    step s = .next { s.announceRejected name with pending := rest } := by
  have hsel : select s .dispatch = .ends (s.announceRejected name) := by
    simp only [select, selectDispatch, State.heldFrame, hk, he]
  simp only [step_of_start hp, hsel, retire]

/-! ### The class of an error (R156, R162) -/

/-- R156: the Transport's errors are of one class. -/
@[simp] theorem classOf_transport (t : TransportError) : classOf (.transport t) = .transportLevel := by
  cases t <;> rfl

/-- R162, R163: the errors with information fields, which are those DECODE raises, are of the framing level. -/
theorem classOf_eq_framingLevel_of_errorInfo {e : ProtocolError} {info : ErrorInfo} (h : errorInfo e = some info) :
    classOf (.protocol (errorName e)) = .framingLevel := by
  cases e with
  | checksumMismatch | framingError | shortRead => rfl
  | timeout | unexpectedFrameKind | errorFrameReceived | unknownOpcode | statusFlagError => cases h

/-! ### R151 to R156 -/

/-- Settles O41: DECODE leaves the error on the ports with no frame beside it, so DISPATCH announces the rejection and writes
its own ports alone. -/
theorem rejectionIsReportedUnchanged : Obligations.RejectionIsReportedUnchanged := by
  intro s rest e hp hdec
  obtain ⟨info, hinfo⟩ := raisesInformed_decodeFrame _ _ e hdec
  have hreport := step_dispatch_of_raised (s := { s.raiseError e with pending := .start .dispatch :: rest })
    (name := errorName e) rfl rfl rfl
  have hkept : some ((errorInfo e).getD s.decErrInfo) = errorInfo e := by
    rw [hinfo, Option.getD_some]
  exact ⟨_, _, step_decode_of_error hp hdec, hreport, rfl, rfl, classOf_eq_framingLevel_of_errorInfo hinfo, rfl, hkept, rfl⟩

/-- Settles O19: row by row of the dispatcher's table, then event by event. -/
theorem errorsAreSortedIntoThreeClasses : Obligations.ErrorsAreSortedIntoThreeClasses := by
  refine ⟨fun e => ?_, fun ev => ⟨?_, ?_, ?_⟩⟩
  · cases e with
    | transport t => simp
    | protocol name => cases name <;> simp [classOf]
    | idmMismatch => simp [classOf]
  · rintro e rfl
    rfl
  · rintro status rfl
    rfl
  · rintro (rfl | rfl | ⟨dir, pd, rfl⟩) <;> rfl

/-- Settles O27: the events of the three fixed forms; only that of the error frame carries a status. -/
theorem fixedFormsAreReported : Obligations.FixedFormsAreReported :=
  fun _ status hs => ⟨exec_of_dispatch .ack hs, exec_of_dispatch .nack hs, exec_of_dispatch (.error status) hs⟩

/-- Settles O28: the event of a data form is `Data`, whatever its form, direction and payload. -/
theorem dataFormsAreReported : Obligations.DataFormsAreReported := by
  intro s form dir pd hs
  rw [exec_of_dispatch _ hs, eventOfFrame_dataFrame]
  rfl

end Sys2Proof.Proofs
end

section
/-! PROOFS. The refusal of the encoder (60_exceptions.md R174): the step that starts ENCODE on an over-long operand answers
`refuseEncode`, whose record update names the two ports it writes. -/

namespace Sys2Proof.Proofs

open Sys2Proof.Machine

/-- Settles O37: the step is `refuseEncode` with the operation taken from the host's list. -/
theorem tooLongPayloadIsRefused : Obligations.TooLongPayloadIsRefused := by
  intro s hs hlong
  obtain ⟨rest, hp⟩ := (s.started_eq_some_iff .encode).mp hs
  exact ⟨_, step_encode_of_gt hp hlong, rfl⟩

end Sys2Proof.Proofs
end

section
/-! PROOFS. The laws that tie DECODE to ENCODE (42_decode.md section 5). Read forwards, every form that can stand on the wire
decodes from its bytes; read backwards, a buffer that the generic parse accepts is a header, a body and nothing else, so it is the
encoding of what was decoded. -/

namespace Sys2Proof.Proofs

open Sys2Proof.Machine

/-! ### Forms -/

/-- R60: the rows of the opcode table are the three fixed forms and the data forms of either direction. -/
theorem fixed_or_dataFrame (i : Instr) :
    i = .ack ∨ i = .nack ∨ (∃ status, i = .error status) ∨ ∃ form dir pd, i = dataFrame form dir pd := by
  cases i with
  | ack => exact .inl rfl
  | nack => exact .inr (.inl rfl)
  | error status => exact .inr (.inr (.inl ⟨status, rfl⟩))
  | extendedH2C pd => exact .inr (.inr (.inr ⟨.extended, .h2c, pd, rfl⟩))
  | extendedC2H pd => exact .inr (.inr (.inr ⟨.extended, .c2h, pd, rfl⟩))
  | normalH2C pd => exact .inr (.inr (.inr ⟨.normal, .h2c, pd, rfl⟩))
  | normalC2H pd => exact .inr (.inr (.inr ⟨.normal, .c2h, pd, rfl⟩))

theorem dataFrame_inj {form form' : Form} {dir dir' : Direction} {pd pd' : List Byte}
    (h : dataFrame form dir pd = dataFrame form' dir' pd') : form = form' ∧ dir = dir' ∧ pd = pd' := by
  cases form <;> cases dir <;> cases form' <;> cases dir' <;> cases h <;> exact ⟨rfl, rfl, rfl⟩

theorem dataFrame_ne_fixed (form : Form) (dir : Direction) (pd : List Byte) :
    dataFrame form dir pd ≠ .ack ∧ dataFrame form dir pd ≠ .nack ∧ ∀ status, dataFrame form dir pd ≠ .error status := by
  cases form <;> cases dir <;> exact ⟨nofun, nofun, nofun⟩

/-- R74: a length that fits a form is one for which the encoder chooses that form. -/
theorem chooseForm_of_lengthFits {form : Form} {pd : List Byte} (h : LengthFits form (1 + pd.length)) :
    form = chooseForm pd ∧ pd.length ≤ 65534 := by
  unfold chooseForm
  cases form with
  | normal =>
    obtain ⟨-, hle⟩ := h
    exact ⟨(if_pos hle).symm, by omega⟩
  | extended =>
    obtain ⟨hge, hle⟩ := h
    exact ⟨(if_neg (by omega)).symm, by omega⟩

/-- R62, R63: the payload lengths that a data form can carry are those it can announce. -/
theorem lengthFits_of_payloadOk {form : Form} {dir : Direction} {pd : List Byte}
    (h : payloadOk (dataFrame form dir pd) = true) : LengthFits form (1 + pd.length) := by
  cases form with
  | normal =>
    have hle : pd.length ≤ 254 := by cases dir <;> exact of_decide_eq_true h
    exact ⟨by omega, by omega⟩
  | extended =>
    have hle : 255 ≤ pd.length ∧ pd.length ≤ 65534 := by cases dir <;> exact of_decide_eq_true h
    exact ⟨by omega, by omega⟩

/-! ### What is encoded decodes (R107 (d), R135) -/

/-- R135: every data frame of the encoder decodes to its form. -/
theorem decodeFrame_encode_chooseForm {c : Params} (hc : c.Legal) (dir : Direction) {pd : List Byte}
    (h : pd.length ≤ 65534) :
    decodeFrame c (encode c (dataFrame (chooseForm pd) dir pd)) = .ok (dataFrame (chooseForm pd) dir pd) := by
  obtain ⟨-, -, herr⟩ := ne_fixed_of_not_differsOffChecksums hc h (not_differsOffChecksums_self _ _ _)
  exact decodeFrame_encode_of_ne (lengthFits_chooseForm h) herr

/-- R123: under legal parameters the error sequence is recognised as the error frame. -/
theorem decodeFrame_errorBytes {c : Params} (hc : c.Legal) : decodeFrame c c.errorBytes = .ok (.error (errorStatus c)) := by
  obtain ⟨-, -, -, hack, hnack, -, -⟩ := hc
  rw [decodeFrame, if_neg hack, if_neg hnack, if_pos rfl]

/-- R66: the status of a well-formed error frame is the one DECODE reads. -/
theorem errorStatus_eq_of_ok {c : Params} {status : Byte} (h : errorStatusOk c status = true) : errorStatus c = status := by
  rw [errorStatus, of_decide_eq_true h, Option.getD_some]

/-- Settles O1: the fixed forms are recognised by Stage A, a well-formed data form is the one the encoder chooses. -/
theorem decodeOfEncodeIsTheForm : Obligations.DecodeOfEncodeIsTheForm := by
  intro c i hc hwf
  rcases fixed_or_dataFrame i with rfl | rfl | ⟨status, rfl⟩ | ⟨form, dir, pd, rfl⟩
  · rfl
  · rfl
  · rw [← errorStatus_eq_of_ok hwf]
    exact decodeFrame_errorBytes hc
  · obtain ⟨rfl, hle⟩ := chooseForm_of_lengthFits (lengthFits_of_payloadOk (payloadOk_of_wellFormed hwf))
    exact decodeFrame_encode_chooseForm hc dir hle

/-! ### What decodes is an encoding (R137) -/

/-- R124 to R129: a buffer whose envelope and header parse begins with the header its form and length have. -/
theorem eq_dataHeader_append {c : Params} {b : List Byte} {h : Form × Nat × Nat} (henv : checkEnvelope b = .ok ())
    (hok : parseHeader c b = .ok h) :
    ∃ tail, b = dataHeader c h.1 h.2.1 ++ tail ∧ h.2.2 = (dataHeader c h.1 h.2.1).length := by
  obtain ⟨rest, rfl⟩ := (checkEnvelope_eq_ok_iff _ _).mp henv
  obtain ⟨s0, h0, hok⟩ := (bind_eq_ok_iff _ _ _).mp hok
  obtain ⟨s1, h1, hok⟩ := (bind_eq_ok_iff _ _ _).mp hok
  rw [getByte_eq_ok_iff] at h0 h1
  match rest, h0, h1 with
  | t0 :: t1 :: tail, h0, h1 =>
    obtain rfl : t0 = s0 := Option.some.inj h0
    obtain rfl : t1 = s1 := Option.some.inj h1
    split at hok
    · rename_i hmark
      obtain ⟨rfl, rfl⟩ := hmark
      obtain ⟨lenm, lenl, h5, h6, hcks, -, rfl⟩ := (parseExtendedHeader_eq_ok_iff _ _ _).mp hok
      match tail, h5, h6 with
      | m :: l :: tail, h5, h6 =>
        obtain rfl : m = lenm := Option.some.inj h5
        obtain rfl : l = lenl := Option.some.inj h6
        refine ⟨tail.drop (extLcsSize c.extLcsRule), ?_, (length_dataHeader c .extended _).symm⟩
        change tail.take _ = _ at hcks
        simp [dataHeader, hi8_be16, lo8_be16, ← hcks, envelopeBytes, extMark]
    · obtain ⟨rfl, -, rfl⟩ := (parseNormalHeader_eq_ok_iff _ _ _).mp hok
      exact ⟨tail, by simp [dataHeader], rfl⟩

/-- R130 to R133: after a header, a body that parses is the TFI, a payload of the announced length, its data checksum and the
postamble. -/
theorem eq_body_of_parseBody {front tail : List Byte} {form : Form} {len : Nat} {i : Instr} (hpos : 1 ≤ len)
    (h : parseBody (front ++ tail) form len front.length = .ok i) :
    ∃ dir pd, len = 1 + pd.length ∧ tail = tfiOf dir :: pd ++ [dcs (tfiOf dir) pd, postamble] ∧
      i = dataFrame form dir pd := by
  obtain ⟨dir, pd, htfi, hpd, hlen, hdcs, hpost, htotal, rfl⟩ := (parseBody_eq_ok_iff _ _ _ _ _).mp h
  refine ⟨dir, pd, by omega, ?_, rfl⟩
  simp only [Nat.add_assoc, List.getElem?_append_right (Nat.le_add_right _ _),
    List.getElem?_append_right (Nat.le_refl _), Nat.sub_self, Nat.add_sub_cancel_left, List.length_append,
    List.drop_length_add_append] at htfi hpd hdcs hpost htotal
  obtain ⟨n, rfl⟩ := Nat.exists_eq_add_of_le' hpos
  match tail, htfi with
  | tfi :: tail, htfi =>
    obtain rfl : tfi = tfiOf dir := Option.some.inj htfi
    simp only [List.getElem?_cons_succ, List.drop_succ_cons, List.drop_zero, Nat.add_sub_cancel, List.length_cons,
      ← Nat.add_assoc] at hpd hdcs hpost htotal
    have hrest : tail.drop n = [dcs (tfiOf dir) pd, postamble] := by
      refine List.ext_getElem? fun k => ?_
      rw [List.getElem?_drop]
      match k with
      | 0 => exact hdcs
      | 1 => exact hpost
      | k + 2 => exact List.getElem?_eq_none (by omega)
    rw [List.cons_append, ← hrest, hpd, List.take_append_drop]

/-- R137 (b): what the generic parse accepts is the encoding of a data form whose payload it can carry. -/
theorem eq_encode_of_genericParse {c : Params} {b : List Byte} {i : Instr} (h : genericParse c b = .ok i) :
    ∃ form dir pd, i = dataFrame form dir pd ∧ LengthFits form (1 + pd.length) ∧
      b = encode c (dataFrame form dir pd) := by
  obtain ⟨_, henv, h⟩ := (bind_eq_ok_iff _ _ _).mp h
  obtain ⟨⟨form, len, base⟩, hhead, hbody⟩ := (bind_eq_ok_iff _ _ _).mp h
  have hfits := lengthFits_of_parseHeader hhead
  obtain ⟨tail, rfl, hbase⟩ := eq_dataHeader_append henv hhead
  dsimp only at hfits hbase hbody ⊢
  subst hbase
  have hpos : 1 ≤ len := by cases form <;> obtain ⟨hge, -⟩ := hfits <;> omega
  obtain ⟨dir, pd, rfl, rfl, rfl⟩ := eq_body_of_parseBody hpos hbody
  refine ⟨form, dir, pd, rfl, hfits, ?_⟩
  rw [encode_eq_dataBody_append, dataBody, List.append_assoc]

/-- R121 to R123, R137: an accepted buffer is a fixed sequence, or the encoding of a data form. -/
theorem decodeFrame_eq_ok_cases {c : Params} {b : List Byte} {i : Instr} (h : decodeFrame c b = .ok i) :
    (i = .ack ∧ b = ackBytes) ∨ (i = .nack ∧ b = nackBytes) ∨ (i = .error (errorStatus c) ∧ b = c.errorBytes) ∨
      ∃ form dir pd, i = dataFrame form dir pd ∧ LengthFits form (1 + pd.length) ∧
        b = encode c (dataFrame form dir pd) := by
  unfold decodeFrame at h
  split at h
  · cases h; exact .inl ⟨rfl, ‹_›⟩
  split at h
  · cases h; exact .inr (.inl ⟨rfl, ‹_›⟩)
  split at h
  · cases h; exact .inr (.inr (.inl ⟨rfl, ‹_›⟩))
  exact .inr (.inr (.inr (eq_encode_of_genericParse h)))

/-- R137: every accepted buffer is the encoding of the form it decodes to. -/
theorem eq_encode_of_decodeFrame {c : Params} {b : List Byte} {i : Instr} (h : decodeFrame c b = .ok i) :
    b = encode c i := by
  rcases decodeFrame_eq_ok_cases h with ⟨rfl, hb⟩ | ⟨rfl, hb⟩ | ⟨rfl, hb⟩ | ⟨form, dir, pd, rfl, -, hb⟩ <;> exact hb

/-- Settles O3: both halves say that an accepted buffer is the encoding of the decoded form. -/
theorem acceptedFramesAreCanonical : Obligations.AcceptedFramesAreCanonical := by
  intro c b
  refine ⟨fun form dir pd h => ?_, fun b' i h h' => ?_⟩
  · obtain ⟨hform, hle⟩ := chooseForm_of_lengthFits (lengthFits_of_payloadOk (payloadOk_of_decodeFrame h))
    exact ⟨hform, hle, eq_encode_of_decodeFrame h⟩
  · rw [eq_encode_of_decodeFrame h, eq_encode_of_decodeFrame h']

/-- Settles O4: accepted buffers are encodings, and every encoding on the list decodes. -/
theorem acceptedSetIsFixedFormsAndEncoderRange : Obligations.AcceptedSetIsFixedFormsAndEncoderRange := by
  intro c b hc
  constructor
  · rintro ⟨i, h⟩
    rcases decodeFrame_eq_ok_cases h with ⟨-, hb⟩ | ⟨-, hb⟩ | ⟨-, hb⟩ | ⟨form, dir, pd, -, hfits, hb⟩
    · exact .inl hb
    · exact .inr (.inl hb)
    · exact .inr (.inr (.inl hb))
    · obtain ⟨rfl, hle⟩ := chooseForm_of_lengthFits hfits
      exact .inr (.inr (.inr ⟨dir, pd, hle, hb⟩))
  · rintro (rfl | rfl | rfl | ⟨dir, pd, hle, rfl⟩)
    · exact ⟨_, rfl⟩
    · exact ⟨_, rfl⟩
    · exact ⟨_, decodeFrame_errorBytes hc⟩
    · exact ⟨_, decodeFrame_encode_chooseForm hc dir hle⟩

/-! ### The encoder alone (R107) -/

/-- R100: what the pure encoder answers, and for which payloads. -/
theorem encodeFrame_eq_some_iff (c : Params) (dir : Direction) (pd f : List Byte) :
    encodeFrame c dir pd = some f ↔ pd.length ≤ c.maxPayload ∧ encode c (dataFrame (chooseForm pd) dir pd) = f := by
  rw [encodeFrame]
  split <;> simp <;> omega

/-- Settles O8: the decoder recovers the operands, so they are determined by the frame; R8 (c) keeps the fixed sequences
apart. -/
theorem encoderIsInjectiveAndNeverFixed : Obligations.EncoderIsInjectiveAndNeverFixed := by
  intro c dir pd f hc hf
  have hdecodes {dir : Direction} {pd : List Byte} (h : encodeFrame c dir pd = some f) :
      pd.length ≤ 65534 ∧ decodeFrame c f = .ok (dataFrame (chooseForm pd) dir pd) := by
    obtain ⟨hle, rfl⟩ := (encodeFrame_eq_some_iff _ _ _ _).mp h
    have hmax : pd.length ≤ 65534 := by
      obtain ⟨-, -, -, -, -, -, hmax⟩ := hc
      exact hle.trans hmax
    exact ⟨hmax, decodeFrame_encode_chooseForm hc dir hmax⟩
  obtain ⟨hle, hdec⟩ := hdecodes hf
  refine ⟨fun dir' pd' hf' => ?_, ?_⟩
  · obtain ⟨-, hdec'⟩ := hdecodes hf'
    obtain ⟨-, hdir, hpd⟩ := dataFrame_inj (Except.ok.inj (hdec'.symm.trans hdec))
    exact ⟨hdir, hpd⟩
  · obtain ⟨-, rfl⟩ := (encodeFrame_eq_some_iff _ _ _ _).mp hf
    exact ne_fixed_of_not_differsOffChecksums hc hle (not_differsOffChecksums_self _ _ _)

/-- Settles O20: Stage A recognises the three fixed sequences, the generic parse the two data frames. -/
theorem wordsOfTheTableDecode : Obligations.WordsOfTheTableDecode :=
  ⟨rfl, rfl, decodeFrame_errorBytes hardware_legal,
    decodeOfEncodeIsTheForm Config.hardware (.normalH2C [0x02]) hardware_legal rfl,
    decodeOfEncodeIsTheForm Config.hardware (.normalC2H []) hardware_legal rfl⟩

end Sys2Proof.Proofs
end

section
/-! PROOFS. One flipped bit anywhere in a data frame (42_decode.md R136, last sentences). The frame is cut at the end of its
header: a changed byte of the envelope, of the length, of the TFI, of the payload or of the postamble leaves a buffer of which
the error clauses of R124 to R133 say what is wrong; a changed checksum byte is R136's first half. -/

namespace Sys2Proof.Proofs

open Sys2Proof.Machine

/-- The result is an error that names a wrong checksum or a wrong frame. -/
def Rejected (x : Except ProtocolError Instr) : Prop :=
  ∃ e, x = .error e ∧ (errorName e = .checksumMismatch ∨ errorName e = .framingError)

theorem rejected_of_checksumMismatch {x : Except ProtocolError Instr} {field : ChecksumField}
    {expected actual : ChecksumValue} {position : Nat} (h : x = .error (.checksumMismatch field expected actual position)) :
    Rejected x := ⟨_, h, .inl rfl⟩

theorem rejected_of_framingError {x : Except ProtocolError Instr} {reason : FramingReason} {position : Nat}
    {offender : Offender} (h : x = .error (.framingError reason position offender)) : Rejected x := ⟨_, h, .inr rfl⟩

/-! ### A data frame with one byte changed is no fixed sequence of this hardware -/

/-- R62, R63: no data frame is shorter than the empty Normal frame, and only that one has its 8 bytes. -/
theorem eight_le_length_encode (c : Params) (dir : Direction) (pd : List Byte) :
    8 ≤ (encode c (dataFrame (chooseForm pd) dir pd)).length ∧
      ((encode c (dataFrame (chooseForm pd) dir pd)).length = 8 → pd = []) := by
  rw [encode_chooseForm]
  split
  · rw [length_normalBytes]
    exact ⟨Nat.le_add_right _ _, fun h => List.length_eq_zero_iff.mp (Nat.add_left_cancel h)⟩
  · rw [length_extendedBytes]
    exact ⟨by omega, by omega⟩

/-- R64, R66: ACK is too short, and the error sequence of entry 3 differs from the empty Normal frames in two bytes. -/
theorem set_encode_ne_fixed (dir : Direction) (pd : List Byte) (at_ : Nat) (w : Byte) :
    (encode Config.hardware (dataFrame (chooseForm pd) dir pd)).set at_ w ≠ ackBytes ∧
      (encode Config.hardware (dataFrame (chooseForm pd) dir pd)).set at_ w ≠ Config.hardware.errorBytes := by
  obtain ⟨hge, hempty⟩ := eight_le_length_encode Config.hardware dir pd
  have hlen : ((encode Config.hardware (dataFrame (chooseForm pd) dir pd)).set at_ w).length =
    (encode Config.hardware (dataFrame (chooseForm pd) dir pd)).length := List.length_set
  refine ⟨fun heq => ?_, fun heq => ?_⟩ <;> rw [heq] at hlen
  · rw [← hlen] at hge
    exact absurd hge (by decide)
  · obtain rfl := hempty hlen.symm
    have htfi : (encode Config.hardware (dataFrame .normal dir []))[5]? ≠ Config.hardware.errorBytes[5]? := by
      cases dir <;> decide
    have hdcs : (encode Config.hardware (dataFrame .normal dir []))[6]? ≠ Config.hardware.errorBytes[6]? := by
      cases dir <;> decide
    rw [← heq] at htfi hdcs
    by_cases h5 : at_ = 5
    · exact hdcs (List.getElem?_set_ne (by omega)).symm
    · exact htfi (List.getElem?_set_ne h5).symm

/-! ### The envelope -/

/-- R124: another byte in the envelope. -/
theorem rejected_set_envelope {c : Params} (hc : c.Legal) {rest : List Byte} {at_ : Nat} {v w : Byte} (hat : at_ < 3)
    (hv : (envelopeBytes ++ rest)[at_]? = some v) (hw : w ≠ v) :
    Rejected (decodeFrame c ((envelopeBytes ++ rest).set at_ w)) := by
  obtain ⟨-, h0, -, h1, -, h2⟩ := envelopeIsCheckedByteByByte c hc
  match at_, hat with
  | 0, _ =>
    obtain rfl : 0x00 = v := Option.some.inj hv
    exact rejected_of_framingError (h0 w _ hw)
  | 1, _ =>
    obtain rfl : 0x00 = v := Option.some.inj hv
    exact rejected_of_framingError (h1 w _ hw)
  | 2, _ =>
    obtain rfl : 0xFF = v := Option.some.inj hv
    exact rejected_of_framingError (h2 w _ hw)

/-! ### The length -/

/-- R126: two bytes after the envelope that do not sum to 0 and are not the extended marker. -/
theorem rejected_of_ne_lcs8 {c : Params} {len cks : Byte} {rest : List Byte} (hcks : cks ≠ lcs8 len)
    (hmark : ¬ (len = 0xFF ∧ cks = 0xFF)) (hack : envelopeBytes ++ len :: cks :: rest ≠ ackBytes)
    (herr : envelopeBytes ++ len :: cks :: rest ≠ c.errorBytes) :
    Rejected (decodeFrame c (envelopeBytes ++ len :: cks :: rest)) := by
  have hsum : (len.toNat + cks.toNat) % 256 ≠ 0 := fun h => hcks ((lcsOk_iff _ _).mp (decide_eq_true h))
  exact rejected_of_checksumMismatch ((normalLengthErrorsComeFirst c len cks rest hack herr hmark).1 hsum)

/-- R90: negation of bytes loses nothing. -/
theorem lcs8_injective : Function.Injective lcs8 := fun x y h => by
  have := x.isLt; have := y.isLt
  have hnat := congrArg BitVec.toNat h
  rw [lcs8, lcs8, toNat_neg8, toNat_neg8] at hnat
  exact BitVec.eq_of_toNat_eq (by omega)

/-- R91: no single bit turns a length whose checksum is `FF` into the first byte of the extended marker. -/
theorem xor_not_extMark_of_lcs8 (len : Byte) {bit : Nat} (h : bit < 8) :
    ¬ (len ^^^ BitVec.twoPow 8 bit = 0xFF ∧ lcs8 len = 0xFF) := by
  rintro ⟨hmark, hlcs⟩
  obtain rfl : len = 0x01 := lcs8_injective (hlcs.trans (by decide))
  have hnone : ∀ bit < 8, 0x01#8 ^^^ BitVec.twoPow 8 bit ≠ 0xFF := by decide
  exact hnone bit h hmark

/-- R93: under `sum16` different lengths have different checksums. -/
theorem extLcs_sum16_inj {m n : Nat} (hm : m < 65536) (hn : n < 65536) (h : extLcs .sum16 m = extLcs .sum16 n) : m = n := by
  simp only [extLcs, List.cons.injEq, and_true] at h
  obtain ⟨hhi, hlo⟩ := h
  have hlt (x : Nat) : lcs16 x < 65536 := Nat.mod_lt _ (by decide)
  have heq : lcs16 m = lcs16 n := by rw [← be16_hi8_lo8 (hlt m), ← be16_hi8_lo8 (hlt n), hhi, hlo]
  rw [lcs16, lcs16, neg16, neg16] at heq
  omega

/-- R129: another length with the length checksum of a frame. -/
theorem rejected_of_other_length {c : Params} (hrule : c.extLcsRule = .sum16) {lenm lenl : Byte} {len : Nat}
    {rest : List Byte} (hlen : len < 65536) (hne : be16 lenm lenl ≠ len)
    (herr : envelopeBytes ++ extMark ++ lenm :: lenl :: extLcs c.extLcsRule len ++ rest ≠ c.errorBytes) :
    Rejected (decodeFrame c (envelopeBytes ++ extMark ++ lenm :: lenl :: extLcs c.extLcsRule len ++ rest)) := by
  have hcks : extLcs c.extLcsRule len ≠ extLcs c.extLcsRule (be16 lenm lenl) := by
    rw [hrule]
    exact fun h => hne (extLcs_sum16_inj hlen (be16_lt _ _) h).symm
  exact rejected_of_checksumMismatch
    (((extendedLengthErrorsComeFirst c).2 lenm lenl _ rest (length_extLcs _ _) herr).1 hcks)

/-- R126: another length byte in a Normal frame. -/
theorem rejected_flip_normalLength {dir : Direction} {pd : List Byte} {bit : Nat} {v : Byte} (hform : chooseForm pd = .normal)
    (hbit : bit < 8) (hv : (normalBytes dir pd)[3]? = some v) :
    Rejected (decodeFrame Config.hardware ((normalBytes dir pd).set 3 (v ^^^ BitVec.twoPow 8 bit))) := by
  obtain ⟨hack, herr⟩ := set_encode_ne_fixed dir pd 3 (v ^^^ BitVec.twoPow 8 bit)
  rw [hform, encode_dataFrame] at hack herr
  obtain rfl : BitVec.ofNat 8 (1 + pd.length) = v := Option.some.inj hv
  exact rejected_of_ne_lcs8 (fun h => xor_twoPow_ne_self _ hbit (lcs8_injective h).symm)
    (xor_not_extMark_of_lcs8 _ hbit) hack herr

/-- R126, R129: another byte of the extended marker or of the length in an Extended frame. -/
theorem rejected_flip_extendedLength {dir : Direction} {pd : List Byte} {at_ bit : Nat} {v : Byte}
    (hform : chooseForm pd = .extended) (hpd : pd.length ≤ 65534) (hbit : bit < 8) (hge : 3 ≤ at_) (hlt : at_ < 7)
    (hv : (extendedBytes Config.hardware dir pd)[at_]? = some v) :
    Rejected (decodeFrame Config.hardware
      ((extendedBytes Config.hardware dir pd).set at_ (v ^^^ BitVec.twoPow 8 bit))) := by
  obtain ⟨hack, herr⟩ := set_encode_ne_fixed dir pd at_ (v ^^^ BitVec.twoPow 8 bit)
  rw [hform, encode_dataFrame] at hack herr
  have hflip := xor_twoPow_ne_self v hbit
  have hjoin : be16 (hi8 (1 + pd.length)) (lo8 (1 + pd.length)) = 1 + pd.length := be16_hi8_lo8 (by omega)
  have hother {lenm lenl : Byte} (h : be16 lenm lenl = 1 + pd.length) :
      lenm = hi8 (1 + pd.length) ∧ lenl = lo8 (1 + pd.length) := by
    rw [← h, hi8_be16, lo8_be16]
    exact ⟨rfl, rfl⟩
  match at_, hge, hlt with
  | 3, _, _ =>
    obtain rfl : 0xFF = v := Option.some.inj hv
    have hlcs : ∀ bit < 8, 0xFF ≠ lcs8 (0xFF#8 ^^^ BitVec.twoPow 8 bit) := by decide
    exact rejected_of_ne_lcs8 (hlcs bit hbit) (fun h => hflip h.1) hack herr
  | 4, _, _ =>
    obtain rfl : 0xFF = v := Option.some.inj hv
    have hlcs : ∀ bit < 8, 0xFF#8 ^^^ BitVec.twoPow 8 bit ≠ lcs8 0xFF := by decide
    exact rejected_of_ne_lcs8 (hlcs bit hbit) (fun h => hflip h.2) hack herr
  | 5, _, _ =>
    obtain rfl : hi8 (1 + pd.length) = v := Option.some.inj hv
    rw [extendedBytes_eq_head_append, List.append_assoc, List.append_assoc] at herr ⊢
    exact rejected_of_other_length rfl (Nat.lt_succ_of_le (by omega)) (fun h => hflip (hother h).1) herr
  | 6, _, _ =>
    obtain rfl : lo8 (1 + pd.length) = v := Option.some.inj hv
    rw [extendedBytes_eq_head_append, List.append_assoc, List.append_assoc] at herr ⊢
    exact rejected_of_other_length rfl (Nat.lt_succ_of_le (by omega)) (fun h => hflip (hother h).2) herr

/-! ### TFI, payload and postamble -/

/-- R97: a data checksum tells apart what sums differently. -/
theorem dcs_eq_iff (tfi tfi' : Byte) (pd pd' : List Byte) :
    dcs tfi pd = dcs tfi' pd' ↔ (tfi.toNat + byteSum pd) % 256 = (tfi'.toNat + byteSum pd') % 256 := by
  rw [dcs, dcs, ← BitVec.toNat_inj, toNat_neg8, toNat_neg8, BitVec.toNat_ofNat, BitVec.toNat_ofNat]
  omega

theorem byteSum_set {pd : List Byte} {j : Nat} {v : Byte} (hv : pd[j]? = some v) (w : Byte) :
    byteSum (pd.set j w) + v.toNat = byteSum pd + w.toNat := by
  induction pd generalizing j with
  | nil => cases hv
  | cons x pd ih =>
    cases j with
    | zero =>
      obtain rfl : x = v := Option.some.inj hv
      simp only [List.set_cons_zero, byteSum]
      omega
    | succ j =>
      have := ih (List.getElem?_cons_succ ▸ hv)
      simp only [List.set_cons_succ, byteSum]
      omega

/-- R97, R136: the data checksum of a frame is wrong for the same frame with one payload byte changed. -/
theorem dcs_ne_dcs_set (tfi : Byte) {pd : List Byte} {j : Nat} {v w : Byte} (hv : pd[j]? = some v) (hw : w ≠ v) :
    dcs tfi pd ≠ dcs tfi (pd.set j w) := fun h => by
  have := v.isLt; have := w.isLt
  have hsum := byteSum_set hv w
  rw [dcs_eq_iff] at h
  exact hw (BitVec.eq_of_toNat_eq (by omega))

/-- R71, R97: the data checksum of a frame is wrong for the same frame in the other direction. -/
theorem dcs_ne_dcs_dir {dir dir' : Direction} (h : dir' ≠ dir) (pd : List Byte) :
    dcs (tfiOf dir) pd ≠ dcs (tfiOf dir') pd := fun heq => by
  have hd4 : (tfiOf .h2c).toNat = 212 := rfl
  have hd5 : (tfiOf .c2h).toNat = 213 := rfl
  rw [dcs_eq_iff] at heq
  cases dir <;> cases dir'
  case h2c.h2c => exact h rfl
  case c2h.c2h => exact h rfl
  all_goals omega

/-- R130, R132: another TFI is no TFI, or that of the other direction. -/
theorem rejected_of_other_tfi {c : Params} {form : Form} {dir : Direction} {pd rest : List Byte} {w : Byte}
    (hfits : LengthFits form (1 + pd.length)) (hw : w ≠ tfiOf dir)
    (herr : dataHeader c form (1 + pd.length) ++ w :: pd ++ dcs (tfiOf dir) pd :: rest ≠ c.errorBytes) :
    Rejected (decodeFrame c (dataHeader c form (1 + pd.length) ++ w :: pd ++ dcs (tfiOf dir) pd :: rest)) := by
  cases hdir : dirOf w with
  | none =>
    rw [List.append_assoc] at herr ⊢
    exact rejected_of_framingError (decodeFrame_of_badTfi hfits hdir herr)
  | some dir' =>
    obtain rfl := (dirOf_eq_some_iff _ _).mp hdir
    have hne : dir' ≠ dir := fun h => hw (congrArg tfiOf h)
    exact rejected_of_checksumMismatch (decodeFrame_of_ne_dcs hfits (dcs_ne_dcs_dir hne pd) herr)

/-- R132: another payload byte. -/
theorem rejected_of_other_payload {c : Params} {form : Form} {dir : Direction} {pd rest : List Byte} {j : Nat} {v w : Byte}
    (hfits : LengthFits form (1 + pd.length)) (hv : pd[j]? = some v) (hw : w ≠ v)
    (herr : dataHeader c form (1 + pd.length) ++ tfiOf dir :: pd.set j w ++ dcs (tfiOf dir) pd :: rest ≠ c.errorBytes) :
    Rejected (decodeFrame c
      (dataHeader c form (1 + pd.length) ++ tfiOf dir :: pd.set j w ++ dcs (tfiOf dir) pd :: rest)) := by
  have hlen : (pd.set j w).length = pd.length := List.length_set
  rw [← hlen] at hfits herr ⊢
  exact rejected_of_checksumMismatch (decodeFrame_of_ne_dcs hfits (dcs_ne_dcs_set _ hv hw) herr)

/-- R130 to R133: another byte from the TFI on, unless it is the data checksum. -/
theorem rejected_set_body {c : Params} {form : Form} {dir : Direction} {pd : List Byte} {k : Nat} {v w : Byte}
    (hfits : LengthFits form (1 + pd.length)) (hk : k ≠ 1 + pd.length)
    (hv : (tfiOf dir :: pd ++ [dcs (tfiOf dir) pd, postamble])[k]? = some v) (hw : w ≠ v)
    (herr : dataHeader c form (1 + pd.length) ++ (tfiOf dir :: pd ++ [dcs (tfiOf dir) pd, postamble]).set k w ≠ c.errorBytes) :
    Rejected (decodeFrame c
      (dataHeader c form (1 + pd.length) ++ (tfiOf dir :: pd ++ [dcs (tfiOf dir) pd, postamble]).set k w)) := by
  rcases Nat.lt_trichotomy k (1 + pd.length) with hlt | heq | hgt
  · rw [List.getElem?_append_left (by simpa [Nat.add_comm] using hlt)] at hv
    rw [List.set_append_left _ _ (by simpa [Nat.add_comm] using hlt), ← List.append_assoc] at herr ⊢
    cases k with
    | zero =>
      obtain rfl : tfiOf dir = v := Option.some.inj hv
      exact rejected_of_other_tfi hfits hw herr
    | succ j => exact rejected_of_other_payload hfits hv hw herr
  · exact absurd heq hk
  · obtain ⟨m, rfl⟩ := Nat.exists_eq_add_of_lt hgt
    have hat : 1 + pd.length + m + 1 = (tfiOf dir :: pd).length + (m + 1) := by rw [List.length_cons]; omega
    rw [hat, List.getElem?_append_right (Nat.le_add_right _ _), Nat.add_sub_cancel_left] at hv
    rw [hat, List.set_append_right _ _ (Nat.le_add_right _ _), Nat.add_sub_cancel_left, ← List.append_assoc] at herr ⊢
    cases m with
    | zero =>
      obtain rfl : postamble = v := Option.some.inj hv
      have hdec := decodeFrame_dataBody_dcs (rest := [w]) hfits herr
      rw [checkEnd_of_ne_postamble _ _ hw, error_bind] at hdec
      exact rejected_of_framingError hdec
    | succ m => cases hv

/-! ### R136 -/

/-- R124: a flipped bit of the envelope of a data frame. -/
theorem rejected_flip_envelope {dir : Direction} {pd : List Byte} {at_ bit : Nat} {v : Byte} (hbit : bit < 8) (hat : at_ < 3)
    (hv : (encode Config.hardware (dataFrame (chooseForm pd) dir pd))[at_]? = some v) :
    Rejected (decodeFrame Config.hardware
      ((encode Config.hardware (dataFrame (chooseForm pd) dir pd)).set at_ (v ^^^ BitVec.twoPow 8 bit))) := by
  obtain ⟨rest, hrest⟩ : ∃ rest, encode Config.hardware (dataFrame (chooseForm pd) dir pd) = envelopeBytes ++ rest := by
    cases hform : chooseForm pd <;> rw [encode_dataFrame] <;> exact ⟨_, rfl⟩
  rw [hrest] at hv ⊢
  exact rejected_set_envelope hardware_legal hat hv (xor_twoPow_ne_self v hbit)

/-- R125 to R129: a flipped bit between the envelope and the TFI, in a byte that is no checksum byte. -/
theorem rejected_flip_length {dir : Direction} {pd : List Byte} {at_ bit : Nat} {v : Byte} (hpd : pd.length ≤ 65534)
    (hbit : bit < 8) (hge : 3 ≤ at_) (hlt : at_ < (dataHeader Config.hardware (chooseForm pd) (1 + pd.length)).length)
    (hv : (encode Config.hardware (dataFrame (chooseForm pd) dir pd))[at_]? = some v)
    (hoff : ¬ isChecksumOffset (chooseForm pd) 2 (encode Config.hardware (dataFrame (chooseForm pd) dir pd)).length at_ = true) :
    Rejected (decodeFrame Config.hardware
      ((encode Config.hardware (dataFrame (chooseForm pd) dir pd)).set at_ (v ^^^ BitVec.twoPow 8 bit))) := by
  rw [length_dataHeader] at hlt
  cases hform : chooseForm pd with
  | normal =>
    simp only [hform, encode_dataFrame] at hlt hv hoff ⊢
    rw [isChecksumOffset_normal_iff] at hoff
    obtain rfl : at_ = 3 := by omega
    exact rejected_flip_normalLength hform hbit hv
  | extended =>
    have hsize : extLcsSize Config.hardware.extLcsRule = 2 := rfl
    simp only [hform, encode_dataFrame] at hlt hv hoff ⊢
    rw [isChecksumOffset_extended_iff] at hoff
    exact rejected_flip_extendedLength hform hpd hbit hge (by omega) hv

/-- R62, R63: the data checksum stands after TFI and payload. -/
theorem isChecksumOffset_dcs (c : Params) (form : Form) (dir : Direction) (pd : List Byte) (k : Nat) :
    isChecksumOffset form k (encode c (dataFrame form dir pd)).length
      ((dataHeader c form (1 + pd.length)).length + (1 + pd.length)) = true := by
  have hend : (dataHeader c form (1 + pd.length)).length + (1 + pd.length) + 2 =
      (encode c (dataFrame form dir pd)).length := by
    rw [length_encode_eq_dataBody, dataBody, List.length_append, List.length_cons, Nat.add_comm 1]
  cases form with
  | normal => exact (isChecksumOffset_normal_iff _ _ _).mpr (.inr hend)
  | extended => exact (isChecksumOffset_extended_iff _ _ _).mpr (.inr hend)

/-- R136: a flipped bit of any byte that is no checksum byte of a data frame. -/
theorem rejected_flip_off_checksums {dir : Direction} {pd : List Byte} {at_ bit : Nat} {v : Byte} (hpd : pd.length ≤ 65534)
    (hbit : bit < 8) (hv : (encode Config.hardware (dataFrame (chooseForm pd) dir pd))[at_]? = some v)
    (hoff : ¬ isChecksumOffset (chooseForm pd) 2 (encode Config.hardware (dataFrame (chooseForm pd) dir pd)).length at_ = true) :
    Rejected (decodeFrame Config.hardware
      ((encode Config.hardware (dataFrame (chooseForm pd) dir pd)).set at_ (v ^^^ BitVec.twoPow 8 bit))) := by
  rcases Nat.lt_or_ge at_ 3 with henv | hge
  · exact rejected_flip_envelope hbit henv hv
  rcases Nat.lt_or_ge at_ (dataHeader Config.hardware (chooseForm pd) (1 + pd.length)).length with hlt | hge'
  · exact rejected_flip_length hpd hbit hge hlt hv hoff
  obtain ⟨k, rfl⟩ := Nat.exists_eq_add_of_le hge'
  have hk : k ≠ 1 + pd.length := by
    rintro rfl
    exact hoff (isChecksumOffset_dcs _ _ dir pd 2)
  obtain ⟨-, herr⟩ := set_encode_ne_fixed dir pd ((dataHeader Config.hardware (chooseForm pd) (1 + pd.length)).length + k)
    (v ^^^ BitVec.twoPow 8 bit)
  rw [encode_eq_dataBody_append, dataBody, List.append_assoc] at hv herr ⊢
  rw [List.getElem?_append_right hge', Nat.add_sub_cancel_left] at hv
  rw [List.set_append_right _ _ hge', Nat.add_sub_cancel_left] at herr ⊢
  exact rejected_set_body (lengthFits_chooseForm hpd) hk hv (xor_twoPow_ne_self v hbit) herr

/-- Settles O6: a checksum byte by R136's first half, any other byte by the clause for the part of the frame it stands in. -/
theorem anyFlippedBitIsRejected : Obligations.AnyFlippedBitIsRejected := by
  intro dir pd at_ bit v hpd hbit f hv
  by_cases hoff : isChecksumOffset (chooseForm pd) 2 f.length at_ = true
  · obtain ⟨expected, actual, position, h⟩ :=
      flippedChecksumBitIsMismatch Config.hardware dir pd at_ bit v hardware_legal hpd hbit hv hoff
    exact ⟨_, h, .inl rfl, fun _ => ⟨_, _, _, rfl⟩⟩
  · obtain ⟨e, h, hname⟩ := rejected_flip_off_checksums hpd hbit hv hoff
    exact ⟨e, h, hname, fun hcks => absurd hcks hoff⟩

end Sys2Proof.Proofs
end

section
/-! PROOFS. The reads of the decoder (20_memory.md R47, 42_decode.md section 3): they go along the buffer without a gap, so a
short read is reported at the end of the buffer (R166); and on a buffer that is cut off they go as on the whole one, up to the
first missing byte. -/

namespace Sys2Proof.Proofs

open Sys2Proof.Machine

/-! ### Errors with information fields -/

/-- R162, R163: three errors have information fields. -/
theorem errorName_of_errorInfo {e : ProtocolError} {info : ErrorInfo} (h : errorInfo e = some info) :
    errorName e = infoName info ∧
      (errorName e = .checksumMismatch ∨ errorName e = .framingError ∨ errorName e = .shortRead) := by
  cases e with
  | checksumMismatch => cases h; exact ⟨rfl, .inl rfl⟩
  | framingError => cases h; exact ⟨rfl, .inr (.inl rfl)⟩
  | shortRead => cases h; exact ⟨rfl, .inr (.inr rfl)⟩
  | timeout | unexpectedFrameKind | errorFrameReceived | unknownOpcode | statusFlagError => cases h

/-! ### Reads without a gap -/

/-- A part of the parse that begins when the first `start` bytes of `b` are there: its short read is at the end of `b`, and when
it succeeds with `a` the first `stop a` bytes are there. -/
def ReadsOn {α : Type} (b : List Byte) (start : Nat) (stop : α → Nat) (x : Except ProtocolError α) : Prop :=
  start ≤ b.length →
    (∀ position avail, x = .error (.shortRead position avail) → position = b.length ∧ avail = b.length) ∧
    ∀ a, x = .ok a → stop a ≤ b.length

section
variable {α β : Type} {b : List Byte} {start : Nat} {stop : α → Nat} {stop' : β → Nat}

theorem ReadsOn.bind {x : Except ProtocolError α} {f : α → Except ProtocolError β} (hx : ReadsOn b start stop x)
    (hf : ∀ a, x = .ok a → ReadsOn b (stop a) stop' (f a)) : ReadsOn b start stop' (x >>= f) := by
  intro hstart
  obtain ⟨hshort, hok⟩ := hx hstart
  refine ⟨fun position avail h => ?_, fun r h => ?_⟩
  · rcases (bind_eq_error_iff _ _ _).mp h with h | ⟨a, ha, h⟩
    · exact hshort position avail h
    · exact (hf a ha (hok a ha)).1 position avail h
  · obtain ⟨a, ha, h⟩ := (bind_eq_ok_iff _ _ _).mp h
    exact (hf a ha (hok a ha)).2 r h

theorem ReadsOn.ok {a : α} (h : stop a ≤ start) : ReadsOn b start stop (.ok a) := fun hstart =>
  ⟨nofun, fun _ heq => by cases heq; exact h.trans hstart⟩

theorem ReadsOn.error {e : ProtocolError} (h : ∀ position avail, e ≠ .shortRead position avail := by nofun) :
    ReadsOn b start stop (.error e : Except ProtocolError α) := fun _ =>
  ⟨fun position avail heq => by cases heq; exact absurd rfl (h position avail), nofun⟩

theorem ReadsOn.require {holds : Bool} {e : ProtocolError} (h : ∀ position avail, e ≠ .shortRead position avail := by nofun) :
    ReadsOn b start (fun _ => start) (require holds e) := by
  cases holds with
  | true => exact .ok (Nat.le_refl _)
  | false => exact .error h

theorem ReadsOn.getByte : ReadsOn b start (fun _ => start + 1) (getByte b start) := fun hstart =>
  ⟨fun position avail h => by
    obtain ⟨hge, heq⟩ := (getByte_eq_error_iff _ _ _).mp h
    cases heq
    exact ⟨Nat.le_antisymm hstart hge, rfl⟩,
  fun v h => (List.getElem?_eq_some_iff.mp ((getByte_eq_ok_iff _ _ _).mp h)).1⟩

theorem ReadsOn.getRun {n : Nat} : ReadsOn b start (fun _ => start + n) (getRun b start n) := fun hstart =>
  ⟨fun position avail h => by
    obtain ⟨-, -, heq⟩ := (getRun_eq_error_iff _ _ _ _).mp h
    cases heq
    exact ⟨Nat.max_eq_right hstart, rfl⟩,
  fun vs h => by
    obtain ⟨hvs, hlen⟩ := (getRun_eq_ok_iff _ _ _ _).mp h
    rw [hvs, List.length_take, List.length_drop] at hlen
    show start + n ≤ b.length
    omega⟩

end

theorem readsOn_checkEnvelope (b : List Byte) : ReadsOn b 0 (fun _ => 3) (checkEnvelope b) :=
  ReadsOn.getByte.bind fun _ _ => (ReadsOn.require).bind fun _ _ => ReadsOn.getByte.bind fun _ _ =>
    (ReadsOn.require).bind fun _ _ => ReadsOn.getByte.bind fun _ _ => .require

/-- R125 to R129: the header ends where the TFI is to stand. -/
theorem readsOn_parseHeader (c : Params) (b : List Byte) : ReadsOn b 3 (fun h => h.2.2) (parseHeader c b) := by
  refine ReadsOn.getByte.bind fun s0 _ => ReadsOn.getByte.bind fun s1 _ => ?_
  split
  · exact ReadsOn.getByte.bind fun _ _ => ReadsOn.getByte.bind fun _ _ => ReadsOn.getRun.bind fun _ _ =>
      (ReadsOn.require).bind fun _ _ => (ReadsOn.require).bind fun _ _ => .ok (Nat.le_refl _)
  · exact (ReadsOn.require).bind fun _ _ => (ReadsOn.require).bind fun _ _ => .ok (Nat.le_refl _)

theorem readsOn_parseTfi (b : List Byte) (base : Nat) : ReadsOn b base (fun _ => base + 1) (parseTfi b base) := by
  refine ReadsOn.getByte.bind fun tfi _ => ?_
  split
  · exact .ok (Nat.le_refl _)
  · exact .error

theorem readsOn_checkEnd (b : List Byte) (at_ : Nat) : ReadsOn b at_ (fun _ => at_ + 1) (checkEnd b at_) := by
  refine ReadsOn.getByte.bind fun _ _ => (ReadsOn.require).bind fun _ _ => ?_
  split
  · exact .ok (Nat.le_refl _)
  · exact .error

theorem readsOn_parseBody (b : List Byte) (form : Form) {len base : Nat} (hpos : 1 ≤ len) :
    ReadsOn b base (fun _ => 0) (parseBody b form len base) := by
  refine (readsOn_parseTfi b base).bind fun _ _ => ReadsOn.getRun.bind fun _ _ => ?_
  have hnext : base + 1 + (len - 1) = base + len := by omega
  rw [hnext]
  exact ReadsOn.getByte.bind fun _ _ => (ReadsOn.require).bind fun _ _ =>
    (readsOn_checkEnd b _).bind fun _ _ => .ok (Nat.zero_le _)

theorem readsOn_genericParse (c : Params) (b : List Byte) : ReadsOn b 0 (fun _ => 0) (genericParse c b) := by
  refine (readsOn_checkEnvelope b).bind fun _ _ => (readsOn_parseHeader c b).bind fun h hok => ?_
  have hfits := lengthFits_of_parseHeader hok
  refine readsOn_parseBody b _ ?_
  cases hform : h.1 <;> rw [hform] at hfits <;> obtain ⟨hge, -⟩ := hfits <;> omega

/-- R47, R166: a short read of the generic parse is at the end of the buffer. -/
theorem shortRead_at_end {c : Params} {b : List Byte} {position avail : Nat}
    (h : genericParse c b = .error (.shortRead position avail)) : position = b.length ∧ avail = b.length :=
  (readsOn_genericParse c b (Nat.zero_le _)).1 position avail h

/-- R120: only the generic parse raises errors. -/
theorem genericParse_of_decodeFrame_error {c : Params} {b : List Byte} {e : ProtocolError}
    (h : decodeFrame c b = .error e) : genericParse c b = .error e := by
  unfold decodeFrame at h
  split at h
  · cases h
  split at h
  · cases h
  split at h
  · cases h
  exact h

/-- Settles O9: an error of DECODE has information fields, which three errors have; short reads go to the end of the buffer. -/
theorem decoderRaisesThreeErrors : Obligations.DecoderRaisesThreeErrors := by
  intro c b e h
  obtain ⟨info, hinfo⟩ := raisesInformed_decodeFrame c b e h
  refine ⟨(errorName_of_errorInfo hinfo).2, by rw [hinfo]; nofun, ?_⟩
  rintro position avail rfl
  exact shortRead_at_end (genericParse_of_decodeFrame_error h)

/-! ### Buffers that are cut off -/

/-- Where the parse `y` of a whole buffer goes on, the parse `x` of the cut-off one goes on alike or finds a byte missing. -/
def CutsOff {α : Type} (x y : Except ProtocolError α) : Prop :=
  ∀ a, y = .ok a → x = .ok a ∨ ∃ position avail, x = .error (.shortRead position avail)

section
variable {α β : Type}

theorem CutsOff.refl (x : Except ProtocolError α) : CutsOff x x := fun _ h => .inl h

theorem CutsOff.bind {x y : Except ProtocolError α} {f g : α → Except ProtocolError β} (hxy : CutsOff x y)
    (hfg : ∀ a, CutsOff (f a) (g a)) : CutsOff (x >>= f) (y >>= g) := by
  intro r h
  obtain ⟨a, ha, h⟩ := (bind_eq_ok_iff _ _ _).mp h
  rcases hxy a ha with rfl | ⟨position, avail, rfl⟩
  · exact hfg a r h
  · exact .inr ⟨position, avail, rfl⟩

theorem cutsOff_getByte (b : List Byte) (n i : Nat) : CutsOff (getByte (b.take n) i) (getByte b i) := by
  intro v h
  rw [getByte_eq_ok_iff] at h
  rcases Nat.lt_or_ge i n with hi | hi
  · exact .inl ((getByte_eq_ok_iff _ _ _).mpr (by rw [List.getElem?_take_of_lt hi, h]))
  · exact .inr ⟨_, _, (getByte_eq_error_iff _ _ _).mpr ⟨(List.length_take_le _ _).trans hi, rfl⟩⟩

theorem cutsOff_getRun (b : List Byte) (n start k : Nat) : CutsOff (getRun (b.take n) start k) (getRun b start k) := by
  induction k generalizing start with
  | zero => exact .refl _
  | succ k ih =>
    rw [getRun_succ, getRun_succ]
    exact (cutsOff_getByte b n start).bind fun _ => (ih (start + 1)).bind fun _ => .refl _

theorem cutsOff_checkEnvelope (b : List Byte) (n : Nat) : CutsOff (checkEnvelope (b.take n)) (checkEnvelope b) :=
  (cutsOff_getByte b n 0).bind fun _ => (CutsOff.refl _).bind fun _ => (cutsOff_getByte b n 1).bind fun _ =>
    (CutsOff.refl _).bind fun _ => (cutsOff_getByte b n 2).bind fun _ => .refl _

theorem cutsOff_parseHeader (c : Params) (b : List Byte) (n : Nat) : CutsOff (parseHeader c (b.take n)) (parseHeader c b) := by
  refine (cutsOff_getByte b n 3).bind fun _ => (cutsOff_getByte b n 4).bind fun _ => ?_
  split
  · exact (cutsOff_getByte b n 5).bind fun _ => (cutsOff_getByte b n 6).bind fun _ => (cutsOff_getRun b n 7 _).bind fun _ =>
      (CutsOff.refl _).bind fun _ => (CutsOff.refl _).bind fun _ => .refl _
  · exact .refl _

/-- R133: the end of the buffer is asked for after the postamble, so a buffer that is cut off does not get there. -/
theorem cutsOff_checkEnd (b : List Byte) (n at_ : Nat) : CutsOff (checkEnd (b.take n) at_) (checkEnd b at_) := by
  intro _ h
  obtain ⟨-, hlen⟩ := (checkEnd_eq_ok_iff _ _ _).mp h
  rcases Nat.lt_or_ge at_ n with hn | hn
  · exact .inl (by rw [List.take_of_length_le (by omega), h])
  · have hshort := (getByte_eq_error_iff (b.take n) at_ _).mpr ⟨(List.length_take_le _ _).trans hn, rfl⟩
    exact .inr ⟨_, _, (bind_eq_error_iff _ _ _).mpr (.inl hshort)⟩

theorem cutsOff_genericParse (c : Params) (b : List Byte) (n : Nat) :
    CutsOff (genericParse c (b.take n)) (genericParse c b) :=
  (cutsOff_checkEnvelope b n).bind fun _ => (cutsOff_parseHeader c b n).bind fun h =>
    ((cutsOff_getByte b n h.2.2).bind fun _ => .refl _).bind fun _ => (cutsOff_getRun b n _ _).bind fun _ =>
      (cutsOff_getByte b n _).bind fun _ => (CutsOff.refl _).bind fun _ => (cutsOff_checkEnd b n _).bind fun _ => .refl _

end

/-- R135: the generic parse accepts every data frame. -/
theorem genericParse_encode {c : Params} {form : Form} {dir : Direction} {pd : List Byte}
    (h : LengthFits form (1 + pd.length)) :
    genericParse c (encode c (dataFrame form dir pd)) = .ok (dataFrame form dir pd) := by
  have hpost := checkEnd_of_last (dataHeader c form (1 + pd.length) ++ tfiOf dir :: pd ++ [dcs (tfiOf dir) pd])
  rw [List.append_assoc, List.length_append] at hpost
  rw [encode_eq_dataBody_append, dataBody, List.append_assoc, genericParse_dataHeader c h, ← List.append_assoc,
    parseBody_append, (dcsOk_iff _ _ _).mpr rfl]
  exact congrArg (· >>= fun _ => pure (dataFrame form dir pd)) hpost

/-- R47, R166: the generic parse of a data frame that is cut off is a short read at the first missing byte. -/
theorem genericParse_take_encode {c : Params} {form : Form} {dir : Direction} {pd : List Byte} {n : Nat}
    (h : LengthFits form (1 + pd.length)) (hn : n < (encode c (dataFrame form dir pd)).length) :
    genericParse c ((encode c (dataFrame form dir pd)).take n) = .error (.shortRead n n) := by
  have hlen := List.length_take_of_le (Nat.le_of_lt hn)
  rcases cutsOff_genericParse c _ n _ (genericParse_encode h) with hok | ⟨position, avail, herr⟩
  · obtain ⟨form', dir', pd', hform, -, htake⟩ := eq_encode_of_genericParse hok
    rw [htake, ← hform] at hlen
    exact absurd hlen (Nat.ne_of_gt hn)
  · obtain ⟨rfl, rfl⟩ := shortRead_at_end herr
    rw [herr, hlen]

/-- R62, R63: at offset 5 a data frame has its TFI or the upper byte of a length from 256 on, where ACK and NACK have `00`. -/
theorem encode_five_ne_zero {c : Params} {form : Form} {dir : Direction} {pd : List Byte}
    (h : LengthFits form (1 + pd.length)) : (encode c (dataFrame form dir pd))[5]? ≠ some 0x00 := by
  rw [encode_dataFrame]
  cases form with
  | normal => cases dir <;> exact nofun
  | extended =>
    obtain ⟨hge, hle⟩ := h
    intro hzero
    have hhi : (hi8 (1 + pd.length)).toNat = 0 := congrArg BitVec.toNat (Option.some.inj hzero)
    rw [toNat_hi8] at hhi
    omega

/-- Settles O15: what is cut off a data frame is no ACK or NACK, so the generic parse judges it. -/
theorem cutOffFrameIsShortRead : Obligations.CutOffFrameIsShortRead := by
  intro c dir pd n hpd f hn herr
  have hfits := lengthFits_chooseForm hpd
  have hfive : (f.take n)[5]? ≠ some 0x00 := by
    rw [List.getElem?_take]
    split
    · exact encode_five_ne_zero hfits
    · nofun
  have hack : f.take n ≠ ackBytes := fun h => hfive (by rw [h]; rfl)
  have hnack : f.take n ≠ nackBytes := fun h => hfive (by rw [h]; rfl)
  rw [decodeFrame_of_ne hack hnack herr]
  exact genericParse_take_encode hfits hn

end Sys2Proof.Proofs
end

section
/-! PROOFS. Checksums and lengths on the wire: each checksum is determined by what it covers (40_checksums.md R97), 00 is an
ordinary value of it (R95), and the first bytes of a frame tell its length (30_encoding.md R75). -/

namespace Sys2Proof.Proofs

open Sys2Proof.Machine

/-- Settles O18: each predicate of R94 holds for the computed checksum alone. -/
theorem exactlyOneChecksumHolds : Obligations.ExactlyOneChecksumHolds :=
  ⟨fun len => ⟨lcs8 len, (lcsOk_iff _ _).mpr rfl, fun cks => (lcsOk_iff len cks).mp⟩,
    fun tfi pd => ⟨dcs tfi pd, (dcsOk_iff _ _ _).mpr rfl, fun d => (dcsOk_iff tfi pd d).mp⟩,
    fun r lenm lenl => ⟨extLcs r (be16 lenm lenl), (extLcsOk_iff _ _ _ _).mpr rfl,
      fun cks => (extLcsOk_iff r lenm lenl cks).mp⟩⟩

/-- R95: the data checksum is 00 exactly when TFI and payload sum to 0. -/
theorem dcs_eq_zero_iff (tfi : Byte) (pd : List Byte) : 0x00 = dcs tfi pd ↔ (tfi.toNat + byteSum pd) % 256 = 0 := by
  rw [← dcsOk_iff, dcsOk, decide_eq_true_eq]
  rfl

/-- Settles O16: with 00 as its data checksum the frame is the encoding itself, or one with another data checksum. -/
theorem zeroDataChecksumIsOrdinary : Obligations.ZeroDataChecksumIsOrdinary := by
  intro c dir pd hc hpd b
  have hform : chooseForm pd = .normal := by rw [chooseForm_eq, if_pos hpd]
  have hle : pd.length ≤ 65534 := hpd.trans (by decide)
  have hfits : LengthFits .normal (1 + pd.length) := hform ▸ lengthFits_chooseForm hle
  have hb : b = dataBody c .normal dir pd ++ 0x00 :: [postamble] := by simp [b, dataBody, dataHeader, postamble]
  have hbody : (dataBody c .normal dir pd).length = 6 + pd.length := by
    rw [dataBody, List.length_append, length_dataHeader, List.length_cons]
    dsimp only
    omega
  by_cases hsum : ((tfiOf dir).toNat + byteSum pd) % 256 = 0
  · refine .inl ⟨hsum, ?_⟩
    rw [hb, (dcs_eq_zero_iff _ _).mpr hsum, ← encode_eq_dataBody_append, ← hform]
    exact decodeFrame_encode_chooseForm hc dir hle
  · have hset : b = (encode c (dataFrame .normal dir pd)).set (6 + pd.length) 0x00 := by
      rw [hb, encode_eq_dataBody_append, ← hbody, List.set_append_right _ _ (Nat.le_refl _), Nat.sub_self,
        List.set_cons_zero]
    have hoff : isChecksumOffset .normal (extLcsSize c.extLcsRule) (encode c (dataFrame .normal dir pd)).length
        (6 + pd.length) = true :=
      (isChecksumOffset_normal_iff _ _ _).mpr (.inr (by rw [length_encode_eq_dataBody, hbody]))
    have herr : b ≠ c.errorBytes := by
      rw [hset]
      rw [← hform] at hoff ⊢
      exact (ne_fixed_of_not_differsOffChecksums hc hle (not_differsOffChecksums_set hoff 0x00)).2.2
    refine .inr ⟨hsum, ?_⟩
    rw [hb] at herr ⊢
    rw [decodeFrame_of_ne_dcs hfits (fun h => hsum ((dcs_eq_zero_iff _ _).mp h)) herr, hbody]

/-- R75, R126: after the envelope and the bytes of a Normal length. -/
theorem frameTotalLen_normal (c : Params) {len : Nat} (h : LengthFits .normal len) (tail : List Byte) :
    frameTotalLen c (dataHeader c .normal len ++ tail) = some (7 + len) := by
  obtain ⟨hlen, hne⟩ := toNat_normalLength h
  have hack : ¬ (BitVec.ofNat 8 len = (0x00 : Byte) ∧ lcs8 (BitVec.ofNat 8 len) = 0xFF) := fun h => hne h.1
  simp only [dataHeader, envelopeBytes, List.cons_append, List.nil_append, frameTotalLen, and_self, if_true, if_neg hack,
    if_neg (lcs8_not_extMark _), hlen]

/-- R75, R128: after the envelope, the extended marker and the bytes of an Extended length. -/
theorem frameTotalLen_extended (c : Params) {len : Nat} (h : LengthFits .extended len) (tail : List Byte) :
    frameTotalLen c (dataHeader c .extended len ++ tail) = some (9 + extLcsSize c.extLcsRule + len) := by
  obtain ⟨hge, hle⟩ := h
  have hne : hi8 len ≠ 0x00 := fun h => by
    have hzero : (hi8 len).toNat = 0 := congrArg BitVec.toNat h
    rw [toNat_hi8] at hzero
    omega
  have hjoin : be16 (hi8 len) (lo8 len) = len := be16_hi8_lo8 (by omega)
  have hmark : (0xFF : Byte) ≠ 0x00 := by decide
  simp only [dataHeader, envelopeBytes, extMark, List.cons_append, List.nil_append, frameTotalLen, and_self, if_true,
    hmark, false_and, if_false, hne, hjoin]

/-- Settles O17: the fixed forms by computation, the data forms by their headers. -/
theorem frameLengthIsToldByItsFirstBytes : Obligations.FrameLengthIsToldByItsFirstBytes := by
  refine ⟨fun c i rest hwf hemit => ?_, fun rest => rfl⟩
  rcases fixed_or_dataFrame i with rfl | rfl | ⟨status, rfl⟩ | ⟨form, dir, pd, rfl⟩
  · rfl
  · rfl
  · exact absurd rfl hemit
  · have hfits := lengthFits_of_payloadOk (payloadOk_of_wellFormed hwf)
    have hlen := length_encode_eq_dataBody c form dir pd
    rw [hlen, encode_eq_dataBody_append, dataBody, List.append_assoc, List.append_assoc, List.length_append,
      length_dataHeader, List.length_cons]
    cases form with
    | normal =>
      rw [frameTotalLen_normal c hfits]
      dsimp only
      exact congrArg some (by omega)
    | extended =>
      rw [frameTotalLen_extended c hfits]
      dsimp only
      exact congrArg some (by omega)

end Sys2Proof.Proofs
end

section
/-! PROOFS. What `exec` of a form does under each operation (41_encode.md R102, R105; 42_decode.md R134; 43_dispatch.md R150), and
what it leaves alone. Under each operation there is one next state to speak of: the emission, the reception or the announcement
of the form. -/

namespace Sys2Proof.Proofs

open Sys2Proof.Machine

/-! ### The one next state under each operation -/

theorem exec_of_decode {i : Instr} {s : State} (hs : s.started = some .decode) (hok : payloadOk i = true) :
    exec i s = .next (s.receive i) :=
  (exec_eq_next_iff i s _).mpr (.inl ⟨hs, hok, rfl⟩)

theorem eq_receive_of_exec {i : Instr} {s t : State} (hs : s.started = some .decode) (h : exec i s = .next t) :
    t = s.receive i := by
  rcases (exec_eq_next_iff i s t).mp h with ⟨-, -, ht⟩ | ⟨hdis, -⟩ | ⟨op, hop, hdec, -, -⟩
  · exact ht
  · rw [hs] at hdis; cases hdis
  · rw [hs] at hop; cases hop; exact absurd rfl hdec

theorem eq_announce_of_exec {i : Instr} {s t : State} (hs : s.started = some .dispatch) (h : exec i s = .next t) :
    t = s.announce (eventOfFrame i) :=
  (Host.Outcome.next.inj ((exec_of_dispatch i hs).symm.trans h)).symm

theorem eq_emitFrame_of_exec {i : Instr} {s t : State} {op : Operation} (hs : s.started = some op)
    (hop : op = .encode ∨ op = .encAck ∨ op = .encNack) (h : exec i s = .next t) :
    t = s.emitFrame (encode Config.hardware i) := by
  rcases (exec_eq_next_iff i s t).mp h with ⟨hdec, -⟩ | ⟨hdis, -⟩ | ⟨_, -, -, -, -, -, ht⟩
  · rw [hs] at hdec; cases hdec; rcases hop with hop | hop | hop <;> cases hop
  · rw [hs] at hdis; cases hdis; rcases hop with hop | hop | hop <;> cases hop
  · exact ht

/-- R105: no encoder operation has a case for the error frame. -/
theorem exec_error_of_encoder {s : State} {op : Operation} (hs : s.started = some op)
    (hop : op = .encode ∨ op = .encAck ∨ op = .encNack) (status : Byte) : exec (.error status) s = .refused .notEmitted := by
  rw [exec_eq_perform, State.perform, hs]
  rcases hop with rfl | rfl | rfl <;> rfl

/-! ### What is emitted and received -/

/-- R93: the checksum of a length that is not 0, in the spec's bytes. -/
theorem extLcs_sum16_eq {len : Nat} (hpos : 0 < len) (hlt : len < 65536) :
    extLcs .sum16 len = [hi8 (65536 - len), lo8 (65536 - len)] := by
  have hneg : lcs16 len = 65536 - len := Nat.mod_eq_of_lt (by omega)
  rw [extLcs, hneg]

/-- R102: what ENCODE leaves on the ports for an Extended form of either direction, byte by byte. -/
theorem exec_extended_emits (dir : Direction) {s : State} {pd : List Byte} (hs : s.started = some .encode)
    (hge : 255 ≤ pd.length) (hle : pd.length ≤ 65534) :
    ∃ t, exec (dataFrame .extended dir pd) s = .next t ∧
      t.txFrame = extendedHead pd ++ [hi8 (65536 - (1 + pd.length)), lo8 (65536 - (1 + pd.length))] ++ [tfiOf dir] ++ pd ++
        [dcs (tfiOf dir) pd, postamble] ∧
      t.txfLen.toNat = 12 + pd.length ∧ t.encStatus = .done := by
  have hok : payloadOk (dataFrame .extended dir pd) = true := by
    cases dir <;> exact decide_eq_true ⟨hge, hle⟩
  obtain ⟨t, ht, hframe, hlen, hdone⟩ := exec_emits hs (emitterOf_dataFrame .extended dir pd) hok
  rw [encode_dataFrame] at hframe hlen
  refine ⟨t, ht, ?_, hlen.trans (length_extendedBytes _ _ _), hdone⟩
  rw [hframe, extendedBytes_eq_head_append, ← extLcs_sum16_eq (by omega) (by omega)]
  rfl

/-- Settles O24: the two directions of the Extended form. -/
theorem extendedFrameIsEmitted : Obligations.ExtendedFrameIsEmitted :=
  fun _ _ hs hge hle => ⟨exec_extended_emits .h2c hs hge hle, exec_extended_emits .c2h hs hge hle⟩

/-- Settles O25: the fixed forms are received whatever their status. -/
theorem fixedFormsAreReceived : Obligations.FixedFormsAreReceived :=
  fun _ _ hs => ⟨exec_of_decode hs rfl, exec_of_decode hs rfl, exec_of_decode hs rfl⟩

/-- Settles O26: a payload the form can carry is one that `RXP_LEN` counts. -/
theorem dataFormsAreReceived : Obligations.DataFormsAreReceived := by
  intro s form dir pd hs hnormal hextended
  have hfits : LengthFits form (1 + pd.length) := by
    cases form with
    | normal => exact ⟨by omega, by have := hnormal rfl; omega⟩
    | extended => exact ⟨by have := (hextended rfl).1; omega, by have := (hextended rfl).2; omega⟩
  have hok := payloadOk_dataFrame dir hfits (Nat.add_sub_cancel_left 1 pd.length).symm
  refine ⟨_, exec_of_decode hs hok, ?_⟩
  rw [receive_dataFrame]
  exact returnData_ports s _ dir (chooseForm_of_lengthFits hfits).2

/-! ### What is left alone -/

/-- Settles O30: emitting stores the encoding from index 0 of `TXF`, so a read at or above its length is unchanged. -/
theorem emittingLeavesTheRestAlone : Obligations.EmittingLeavesTheRestAlone := by
  intro i s t op hs hop h
  obtain rfl := eq_emitFrame_of_exec hs hop h
  refine ⟨rfl, fun a ha => ?_, fun space hspace a => ?_⟩
  · rw [State.emitFrame_txf]
    exact Memory.read_writeRun_outside _ _ _ (.inr (by rwa [Nat.zero_add]))
  · cases space with
    | txf => exact absurd rfl hspace
    | txp | rxf | rxp => rfl

/-- Settles O31: receiving a fixed form writes ports alone. -/
theorem receivingAFixedFormLeavesTheRestAlone : Obligations.ReceivingAFixedFormLeavesTheRestAlone := by
  intro i s t hs h
  obtain rfl := eq_receive_of_exec hs h
  refine ⟨?_, ?_⟩
  · rintro (rfl | rfl) <;> exact ⟨rfl, fun space _ => by cases space <;> rfl⟩
  · rintro status rfl
    exact ⟨rfl, fun space _ => by cases space <;> rfl⟩

/-- Settles O32: receiving a data form stores the payload from index 0 of `RXP`. -/
theorem receivingADataFormLeavesTheRestAlone : Obligations.ReceivingADataFormLeavesTheRestAlone := by
  intro form dir pd s t hs h
  obtain rfl := eq_receive_of_exec hs h
  rw [receive_dataFrame]
  refine ⟨rfl, fun a ha => ?_, fun space hspace a => ?_⟩
  · exact Memory.read_writeRun_outside _ _ _ (.inr (by rwa [Nat.zero_add]))
  · cases space with
    | rxp => exact absurd rfl hspace
    | txp | txf | rxf => rfl

/-- Settles O33: the announcement writes the event ports, and a status only for an event that carries one. -/
theorem reportingLeavesTheRestAlone : Obligations.ReportingLeavesTheRestAlone := by
  intro i s t hs h
  obtain rfl := eq_announce_of_exec hs h
  refine ⟨rfl, fun hne => ?_, fun space _ => by cases space <;> rfl⟩
  cases i with
  | error status => exact absurd rfl (hne status)
  | ack | nack | extendedH2C | extendedC2H | normalH2C | normalC2H => rfl

end Sys2Proof.Proofs
end

section
/-! PROOFS. Single steps (10_state.md R21, R22, R24): the step that starts an operation runs the form its operand ports give, the
operations end in every state (70_reset_and_hazards.md R191), and the step that is a host write reaches one operand port. -/

namespace Sys2Proof.Proofs

open Sys2Proof.Machine

/-! ### The step that starts an operation -/

/-- A step whose operation finds a form runs it. -/
theorem step_of_select_form {s : State} {op : Operation} {rest : List HostAction} {i : Instr}
    (hp : s.pending = .start op :: rest) (hsel : select s op = .form i) : step s = retire rest (exec i s) := by
  rw [step_of_start hp, hsel]

theorem select_decode_of_ok {s : State} {i : Instr} (h : decodeFrame Config.hardware s.rxFrame = .ok i) :
    select s .decode = .form i := by
  simp only [select, selectDecode, h]

theorem select_dispatch_of_held {s : State} {i : Instr} (hheld : s.heldFrame = some i) (herr : s.decErr = .none) :
    select s .dispatch = .form i := by
  simp only [select, selectDispatch, hheld, herr]

/-- Settles O34: DECODE selects the form its input decodes to. -/
theorem stepRunsTheDecodedForm : Obligations.StepRunsTheDecodedForm :=
  fun _ _ _ hp h => step_of_select_form hp (select_decode_of_ok h)

/-- Settles O35: what each of the other operations selects. -/
theorem stepRunsTheSelectedForm : Obligations.StepRunsTheSelectedForm :=
  fun _ _ => ⟨fun hp hle => step_of_select_form hp (if_neg (Nat.not_lt.mpr hle)), fun hp => step_of_select_form hp rfl,
    fun hp => step_of_select_form hp rfl, fun _ hp hheld herr => step_of_select_form hp (select_dispatch_of_held hheld herr)⟩

/-- Where a form comes from that an operation selects. -/
theorem select_form_cases {s : State} {op : Operation} {i : Instr} (h : select s op = .form i) :
    (emitterOf i = some op ∧ payloadOk i = true) ∨ (op = .decode ∧ decodeFrame Config.hardware s.rxFrame = .ok i) ∨
      (op = .dispatch ∧ s.heldFrame = some i ∧ s.decErr = .none) := by
  cases op with
  | encode =>
    simp only [select, selectEncode] at h
    split at h
    · cases h
    · rename_i hle
      cases h
      exact .inl ⟨emitterOf_dataFrame _ _ _, payloadOk_chooseForm _ (by rw [length_txPayload]; exact Nat.not_lt.mp hle)⟩
  | encAck => cases h; exact .inl ⟨rfl, rfl⟩
  | encNack => cases h; exact .inl ⟨rfl, rfl⟩
  | decode =>
    simp only [select, selectDecode] at h
    split at h
    · cases h; exact .inr (.inl ⟨rfl, ‹_›⟩)
    · cases h
  | dispatch =>
    simp only [select, selectDispatch] at h
    split at h
    · cases h; exact .inr (.inr ⟨rfl, ‹_›, ‹_›⟩)
    · cases h
    · cases h
    · cases h

/-- The form that an operation selects is one that `exec` has a next state for. -/
theorem exec_of_select_form {s : State} {op : Operation} {i : Instr} (hs : s.started = some op) (h : select s op = .form i) :
    ∃ t, exec i s = .next t := by
  rcases select_form_cases h with ⟨hemit, hok⟩ | ⟨rfl, hdec⟩ | ⟨rfl, -, -⟩
  · exact ⟨_, exec_of_emitter hs hemit hok⟩
  · exact ⟨_, exec_of_decode hs (payloadOk_of_decodeFrame hdec)⟩
  · exact ⟨_, exec_of_dispatch i hs⟩

/-- R150: only DISPATCH can find no decode result, where the ports hold both a frame and an error. -/
theorem select_eq_stops_iff (s : State) (op : Operation) (r : Refusal) :
    select s op = .stops r ↔ op = .dispatch ∧ r = .noDecodeResult ∧ s.decKind ≠ .none ∧ s.decErr ≠ .none := by
  cases op with
  | encode => simp only [select, selectEncode]; split <;> simp
  | encAck => simp [select]
  | encNack => simp [select]
  | decode => simp only [select, selectDecode]; split <;> simp
  | dispatch =>
    simp only [select, selectDispatch, State.heldFrame]
    cases s.decKind <;> cases s.decErr <;> simp [eq_comm]

/-- A step that starts an operation goes on, or the operation finds no decode result. -/
theorem step_of_started {s : State} {op : Operation} {rest : List HostAction} (hp : s.pending = .start op :: rest) :
    (∃ t, step s = .next t) ∨ ∃ r, select s op = .stops r ∧ step s = .refused r := by
  rw [step_of_start hp]
  cases hsel : select s op with
  | form i =>
    obtain ⟨t, ht⟩ := exec_of_select_form (State.started_of_pending hp) hsel
    exact .inl ⟨_, (retire_eq_next_iff rest _ _).mpr ⟨t, ht, rfl⟩⟩
  | ends t => exact .inl ⟨_, rfl⟩
  | stops r => exact .inr ⟨r, rfl, rfl⟩

/-- The operations that are not DISPATCH go on in every state. -/
theorem step_next_of_ne_dispatch {s : State} {op : Operation} {rest : List HostAction}
    (hp : s.pending = .start op :: rest) (hop : op ≠ .dispatch) : ∃ t, step s = .next t :=
  (step_of_started hp).resolve_right fun ⟨_, hsel, _⟩ => hop ((select_eq_stops_iff _ _ _).mp hsel).1

/-! ### Host writes (R22, R24) -/

/-- R41: a host write goes on, or it is one of `TXP` beyond a 17-bit index. -/
theorem hostWrite_cases (s : State) (action : HostAction) :
    (∃ t, s.hostWrite action = .next t) ∨
      (s.hostWrite action = .fault .noSuchIndex ∧
        ∃ start bytes, action = .writeTxp start bytes ∧ 2 ^ 17 < start + bytes.length) := by
  cases action with
  | writeTxp start bytes =>
    simp only [State.hostWrite]
    split
    · exact .inl ⟨_, rfl⟩
    · exact .inr ⟨rfl, start, bytes, rfl, Nat.not_le.mp ‹_›⟩
  | setEncDir | setTxpLen | writeRxf | setRxfLen | start => exact .inl ⟨_, rfl⟩

/-- Every step goes on, or faults on a host write beyond `TXP`, or is refused because DISPATCH finds no decode result. -/
theorem step_outcomes (s : State) :
    (∃ t, step s = .next t) ∨
      (step s = .fault .noSuchIndex ∧
        ∃ start bytes rest, s.pending = .writeTxp start bytes :: rest ∧ 2 ^ 17 < start + bytes.length) ∨
      (step s = .refused .noDecodeResult ∧ s.started = some .dispatch ∧ s.decKind ≠ .none ∧ s.decErr ≠ .none) := by
  cases hp : s.pending with
  | nil => exact .inl ⟨s, step_of_nil hp⟩
  | cons action rest =>
    by_cases hstart : ∃ op, action = .start op
    · obtain ⟨op, rfl⟩ := hstart
      rcases step_of_started hp with hnext | ⟨r, hsel, hstep⟩
      · exact .inl hnext
      · obtain ⟨rfl, rfl, hkind, herr⟩ := (select_eq_stops_iff _ _ _).mp hsel
        exact .inr (.inr ⟨hstep, State.started_of_pending hp, hkind, herr⟩)
    · have hwrite := step_of_write hp fun op h => hstart ⟨op, h⟩
      rcases hostWrite_cases s action with ⟨t, ht⟩ | ⟨hfault, start, bytes, rfl, hlong⟩
      · exact .inl ⟨_, hwrite.trans ((retire_eq_next_iff _ _ _).mpr ⟨t, ht, rfl⟩)⟩
      · exact .inr (.inl ⟨hwrite.trans ((retire_eq_fault_iff _ _ _).mpr hfault), start, bytes, rest, rfl, hlong⟩)

/-- Settles O53: the refusal is one of the three outcomes of a step, and its ports are no decode result. -/
theorem stepRefusesOnlyWithoutDecodeResult : Obligations.StepRefusesOnlyWithoutDecodeResult := by
  intro s r
  constructor
  · intro h
    rcases step_outcomes s with ⟨t, hnext⟩ | ⟨hfault, -⟩ | ⟨hrefused, hports⟩
    · rw [hnext] at h; cases h
    · rw [hfault] at h; cases h
    · rw [hrefused] at h; cases h; exact ⟨rfl, hports⟩
  · rintro ⟨rfl, hs, hkind, herr⟩
    obtain ⟨rest, hp⟩ := (s.started_eq_some_iff _).mp hs
    rw [step_of_start hp, (select_eq_stops_iff s .dispatch .noDecodeResult).mpr ⟨rfl, rfl, hkind, herr⟩]

/-- Settles O43: each write sets one operand port; the bytes of a buffer are read back by the law of a store. -/
theorem hostWritesReachTheOperandPorts : Obligations.HostWritesReachTheOperandPorts := by
  intro s rest
  refine ⟨fun dir hp => ?_, fun n hp => ?_, fun n hp => ?_, fun start bytes hp => ?_,
    fun start bytes hp => ⟨fun hle => ?_, fun hlt => ?_⟩⟩ <;>
    rw [step_of_write hp nofun]
  · rfl
  · rfl
  · rfl
  · exact ⟨_, rfl, rfl, Memory.read_writeRun _ _ _⟩
  · rw [State.hostWrite, if_pos hle]
    exact ⟨_, rfl, rfl, Memory.read_writeRun _ _ _⟩
  · rw [State.hostWrite, if_neg (Nat.not_le.mpr hlt)]
    rfl

/-- Settles O44: a store of a string is the store of its first byte and then of the rest, and the length counts them. -/
theorem emitAllIsEmitByByte : Obligations.EmitAllIsEmitByByte := by
  intro s v vs hlt
  have hlen : (s.emit v).txfLen.toNat = s.txfLen.toNat + 1 := by
    rw [State.emit_txfLen, BitVec.toNat_add, Nat.mod_eq_of_lt (by simpa using hlt)]
    rfl
  refine ⟨?_, hlen, fun a ha => ?_, ?_⟩
  · rw [State.emit_txf, Memory.read_write, if_pos rfl]
  · rw [State.emit_txf, Memory.read_write, if_neg ha]
  · have hcount : s.txfLen + BitVec.ofNat 17 (vs.length + 1) = s.txfLen + 1 + BitVec.ofNat 17 vs.length := by
      rw [BitVec.ofNat_add, BitVec.add_assoc, BitVec.add_comm (BitVec.ofNat 17 vs.length)]
      rfl
    rw [State.emitAll, State.emitAll, hlen, List.length_cons, hcount, Memory.writeRun_cons]
    rfl

/-! ### DECODE and DISPATCH -/

/-- Settles O39: the step is `raiseError`, and an error of DECODE has information fields. -/
theorem errorWritesFourPorts : Obligations.ErrorWritesFourPorts := by
  intro s rest e hp h
  obtain ⟨info, hinfo⟩ := raisesInformed_decodeFrame _ _ e h
  refine ⟨info, hinfo, ?_⟩
  rw [step_decode_of_error hp h, State.raiseError, hinfo, Option.getD_some]

/-- Settles O42: without frame and error DISPATCH announces nothing. -/
theorem dispatchWithoutDecodeReportsNothing : Obligations.DispatchWithoutDecodeReportsNothing := by
  intro s rest hp hkind herr
  have hsel : select s .dispatch = .ends s.announceNothing := by
    simp only [select, selectDispatch, State.heldFrame, hkind, herr]
  rw [step_of_start hp, hsel]
  rfl

/-- R150: the step that starts DISPATCH on a frame announces its event. -/
theorem step_dispatch_of_held {s : State} {rest : List HostAction} {i : Instr} (hp : s.pending = .start .dispatch :: rest)
    (hheld : s.heldFrame = some i) (herr : s.decErr = .none) :
    step s = .next { s.announce (eventOfFrame i) with pending := rest } := by
  rw [step_of_select_form hp (select_dispatch_of_held hheld herr), exec_of_dispatch i (State.started_of_pending hp)]
  rfl

/-- R26, R134: what DECODE received is the frame DISPATCH finds on the ports, with no error beside it. -/
theorem heldFrame_receive (s : State) {i : Instr} (h : payloadOk i = true) :
    (s.receive i).heldFrame = some i ∧ (s.receive i).decErr = .none := by
  rcases fixed_or_dataFrame i with rfl | rfl | ⟨status, rfl⟩ | ⟨form, dir, pd, rfl⟩
  · exact ⟨rfl, rfl⟩
  · exact ⟨rfl, rfl⟩
  · exact ⟨rfl, rfl⟩
  · rw [receive_dataFrame]
    have hle := (chooseForm_of_lengthFits (lengthFits_of_payloadOk h)).2
    refine ⟨?_, rfl⟩
    cases form with
    | normal =>
      obtain ⟨-, -, -, hpd, -⟩ := returnData_ports s .normal dir hle
      exact congrArg (fun pd => some (dataFrame .normal dir pd)) hpd
    | extended =>
      obtain ⟨-, -, -, hpd, -⟩ := returnData_ports s .extended dir hle
      exact congrArg (fun pd => some (dataFrame .extended dir pd)) hpd

/-- R134: DECODE writes no event port. -/
theorem receive_evtStatus (s : State) (i : Instr) : (s.receive i).evtStatus = s.evtStatus := by
  cases i <;> rfl

/-- Settles O40: DISPATCH finds what DECODE left, a frame or an error, and announces its event. -/
theorem decodeThenDispatchIsPureDispatch : Obligations.DecodeThenDispatchIsPureDispatch := by
  intro s rest hp
  cases h : decodeFrame Config.hardware s.rxFrame with
  | error e =>
    have hreport := step_dispatch_of_raised (s := { s.raiseError e with pending := .start .dispatch :: rest })
      (name := errorName e) rfl rfl rfl
    exact ⟨_, _, step_decode_of_error hp h, hreport, rfl⟩
  | ok i =>
    obtain ⟨hheld, herr⟩ := heldFrame_receive s (payloadOk_of_decodeFrame h)
    have hreport := step_dispatch_of_held (s := { s.receive i with pending := .start .dispatch :: rest }) rfl hheld herr
    refine ⟨_, _, step_decode_of_ok hp h, hreport, ?_⟩
    rw [← receive_evtStatus s i]
    rfl

/-! ### The end of an operation (R191) -/

/-- R134: what DECODE received is a frame. -/
theorem receive_decKind_ne_none (s : State) (i : Instr) : (s.receive i).decKind ≠ .none := by
  cases i <;> nofun

/-- R100, R103, R104: what an encoder operation ends in is the refusal, or the emission of a form of its own. -/
theorem encoder_step_cases {s t : State} {op : Operation} (hs : s.started = some op)
    (hop : op = .encode ∨ op = .encAck ∨ op = .encNack) (h : step s = .next t) :
    (∃ rest, t = { s.refuseEncode with pending := rest }) ∨
      ∃ i rest, emitterOf i = some op ∧ payloadOk i = true ∧
        t = { s.emitFrame (encode Config.hardware i) with pending := rest } := by
  obtain ⟨rest, hp⟩ := (s.started_eq_some_iff op).mp hs
  have hemits {i : Instr} (hsel : select s op = .form i) (hemit : emitterOf i = some op) (hok : payloadOk i = true) :
      ∃ i rest, emitterOf i = some op ∧ payloadOk i = true ∧
        t = { s.emitFrame (encode Config.hardware i) with pending := rest } := by
    rw [step_of_select_form hp hsel, exec_of_emitter hs hemit hok] at h
    exact ⟨i, rest, hemit, hok, (Host.Outcome.next.inj h).symm⟩
  rcases hop with rfl | rfl | rfl
  · rcases Nat.lt_or_ge 65534 s.txpLen.toNat with hgt | hle
    · rw [step_encode_of_gt hp hgt] at h
      exact .inl ⟨rest, (Host.Outcome.next.inj h).symm⟩
    · exact .inr (hemits (if_neg (Nat.not_lt.mpr hle)) (emitterOf_dataFrame _ _ _)
        (payloadOk_chooseForm _ (by rwa [length_txPayload])))
  · exact .inr (hemits (i := .ack) rfl rfl rfl)
  · exact .inr (hemits (i := .nack) rfl rfl rfl)

/-- Settles O54: DECODE ends in a reception or an error, an encoder operation in the refusal or an emission. -/
theorem operationsAlwaysEnd : Obligations.OperationsAlwaysEnd := by
  intro s op hs hop
  obtain ⟨rest, hp⟩ := (s.started_eq_some_iff op).mp hs
  obtain ⟨t, ht⟩ := step_next_of_ne_dispatch hp hop
  refine ⟨t, ht, ?_, fun hdec => ?_⟩
  · rintro rfl
    cases h : decodeFrame Config.hardware s.rxFrame with
    | error e =>
      rw [step_decode_of_error hp h] at ht
      cases ht
      exact .inl ⟨rfl, nofun⟩
    | ok i =>
      rw [step_decode_of_ok hp h] at ht
      cases ht
      exact .inr ⟨receive_decKind_ne_none s i, (heldFrame_receive s (payloadOk_of_decodeFrame h)).2⟩
  · have henc : op = .encode ∨ op = .encAck ∨ op = .encNack := by
      cases op with
      | encode | encAck | encNack => simp
      | decode => exact absurd rfl hdec
      | dispatch => exact absurd rfl hop
    rcases encoder_step_cases hs henc ht with ⟨_, rfl⟩ | ⟨_, _, -, -, rfl⟩
    · exact .inr rfl
    · exact .inl rfl

/-! ### The error frame (R105) -/

/-- R8, R105: what an operation emits decodes to a form that is no error frame, so it is not the error sequence. -/
theorem encode_ne_errorBytes {i : Instr} (hemit : emitterOf i ≠ none) (hok : payloadOk i = true) :
    encode Config.hardware i ≠ Config.hardware.errorBytes := fun heq => by
  have hdec := decodeOfEncodeIsTheForm Config.hardware i hardware_legal (wellFormed_of_payloadOk hemit hok)
  rw [heq, decodeFrame_errorBytes hardware_legal] at hdec
  cases hdec
  exact hemit rfl

/-- Settles O29: `exec` has no encoder case for the error frame, and what a step leaves is the frame of an emitted form. -/
theorem noOperationEmitsTheErrorFrame : Obligations.NoOperationEmitsTheErrorFrame := by
  intro s op hs hop
  refine ⟨exec_error_of_encoder hs hop, fun t ht hdone => ?_⟩
  rcases encoder_step_cases hs hop ht with ⟨_, rfl⟩ | ⟨i, _, hemit, hok, rfl⟩
  · cases hdone
  · change (s.emitFrame (encode Config.hardware i)).txFrame ≠ _
    rw [txFrame_emitFrame s (length_encode_hardware_le hok)]
    exact encode_ne_errorBytes (by rw [hemit]; nofun) hok

end Sys2Proof.Proofs
end

section
/-! PROOFS. The invariants (10_state.md R23, R26, R28; 20_memory.md R40, R41). `StepEffect` lists what a step to a next state can
have done, with what is then known of the form, the error or the write; each invariant is one case split over that list. -/

namespace Sys2Proof.Proofs

open Sys2Proof.Machine

/-! ### What a step can have done -/

/-- The state `u` that a step from `s` leaves, up to the host's list of actions. -/
inductive StepEffect (s : State) : State → Prop
  | stays : StepEffect s s
  | emits (i : Instr) (hemit : emitterOf i ≠ none) (hok : payloadOk i = true) :
      StepEffect s (s.emitFrame (encode Config.hardware i))
  | refuses : StepEffect s s.refuseEncode
  | receives (i : Instr) (hdec : decodeFrame Config.hardware s.rxFrame = .ok i) : StepEffect s (s.receive i)
  | raises (e : ProtocolError) (hdec : decodeFrame Config.hardware s.rxFrame = .error e) : StepEffect s (s.raiseError e)
  | reports (i : Instr) (hheld : s.heldFrame = some i) : StepEffect s (s.announce (eventOfFrame i))
  | reportsRejected (name : ErrorName) (hkind : s.decKind = .none) (herr : s.decErr = .raised name) :
      StepEffect s (s.announceRejected name)
  | reportsNothing : StepEffect s s.announceNothing
  | setsEncDir (dir : Direction) : StepEffect s { s with encDir := dir }
  | writesTxp (start : Nat) (bytes : List Byte) (hle : start + bytes.length ≤ 2 ^ 17) :
      StepEffect s { s with txp := s.txp.writeRun start bytes }
  | setsTxpLen (n : BitVec 17) : StepEffect s { s with txpLen := n }
  | writesRxf (start : Nat) (bytes : List Byte) : StepEffect s { s with rxf := s.rxf.writeRun start bytes }
  | setsRxfLen (n : Nat) : StepEffect s { s with rxfLen := n }

theorem stepEffect_of_exec {s u : State} {op : Operation} {i : Instr} (hs : s.started = some op)
    (hsel : select s op = .form i) (h : exec i s = .next u) : StepEffect s u := by
  rcases select_form_cases hsel with ⟨hemit, hok⟩ | ⟨rfl, hdec⟩ | ⟨rfl, hheld, -⟩
  · rw [exec_of_emitter hs hemit hok] at h
    cases h
    exact .emits i (by rw [hemit]; nofun) hok
  · obtain rfl := eq_receive_of_exec hs h
    exact .receives i hdec
  · obtain rfl := eq_announce_of_exec hs h
    exact .reports i hheld

theorem stepEffect_of_ends {s u : State} {op : Operation} (h : select s op = .ends u) : StepEffect s u := by
  rcases select_ends_cases h with ⟨-, -, rfl⟩ | ⟨-, e, hdec, rfl⟩ | ⟨-, hkind, name, herr, rfl⟩ | ⟨-, -, -, rfl⟩
  · exact .refuses
  · exact .raises e hdec
  · exact .reportsRejected name hkind herr
  · exact .reportsNothing

theorem stepEffect_of_hostWrite {s u : State} {action : HostAction} (h : s.hostWrite action = .next u) : StepEffect s u := by
  cases action with
  | setEncDir dir => cases h; exact .setsEncDir dir
  | writeTxp start bytes =>
    simp only [State.hostWrite] at h
    split at h
    · cases h; exact .writesTxp start bytes ‹_›
    · cases h
  | setTxpLen n => cases h; exact .setsTxpLen n
  | writeRxf start bytes => cases h; exact .writesRxf start bytes
  | setRxfLen n => cases h; exact .setsRxfLen n
  | start op => cases h; exact .stays

/-- R21: every step to a next state has one of the listed effects, and besides changes the host's list alone. -/
theorem stepEffect_of_step {s t : State} (h : step s = .next t) :
    ∃ u rest, StepEffect s u ∧ t = { u with pending := rest } := by
  rcases step_cases h with ⟨-, rfl⟩ | ⟨op, rest, i, u, hp, hsel, hexec, rfl⟩ | ⟨op, rest, u, -, hsel, rfl⟩ |
    ⟨action, rest, u, -, -, hwrite, rfl⟩
  · exact ⟨t, t.pending, .stays, rfl⟩
  · exact ⟨u, rest, stepEffect_of_exec (State.started_of_pending hp) hsel hexec, rfl⟩
  · exact ⟨u, rest, stepEffect_of_ends hsel, rfl⟩
  · exact ⟨u, rest, stepEffect_of_hostWrite hwrite, rfl⟩

/-- R134: a reception writes the decoder's result ports alone. -/
theorem receive_eq (s : State) (i : Instr) :
    s.receive i = { s with decKind := (s.receive i).decKind, decDir := (s.receive i).decDir, rxp := (s.receive i).rxp,
                           rxpLen := (s.receive i).rxpLen, decStatus := (s.receive i).decStatus,
                           decErr := (s.receive i).decErr } := by
  cases i <;> rfl

/-- R48, R134: a reception leaves `RXP` as it is, or stores a payload of at most 65534 bytes from index 0. -/
theorem receive_rxp_cases (s : State) {i : Instr} (h : payloadOk i = true) :
    (s.receive i).rxp = s.rxp ∨ ∃ pd : List Byte, pd.length ≤ 65534 ∧ (s.receive i).rxp = s.rxp.writeRun 0 pd := by
  rcases fixed_or_dataFrame i with rfl | rfl | ⟨status, rfl⟩ | ⟨form, dir, pd, rfl⟩
  · exact .inl rfl
  · exact .inl rfl
  · exact .inl rfl
  · rw [receive_dataFrame]
    exact .inr ⟨pd, (chooseForm_of_lengthFits (lengthFits_of_payloadOk h)).2, rfl⟩

/-! ### Canonical buffers (R40) and extents (R41) -/

/-- Settles O47: the only buffer writes are stores, which keep the canonical form. -/
theorem stepsKeepBuffersCanonical : Obligations.StepsKeepBuffersCanonical := by
  rintro s t ⟨htxp, htxf, hrxf, hrxp⟩ hstep
  obtain ⟨u, rest, heffect, rfl⟩ := stepEffect_of_step hstep
  change u.BuffersCanonical
  cases heffect with
  | emits i => exact ⟨htxp, Memory.wf_writeRun htxf _ _, hrxf, hrxp⟩
  | receives i hdec =>
    rw [receive_eq]
    rcases receive_rxp_cases s (payloadOk_of_decodeFrame hdec) with hkeep | ⟨pd, -, hstore⟩
    · exact ⟨htxp, htxf, hrxf, by rw [hkeep]; exact hrxp⟩
    · exact ⟨htxp, htxf, hrxf, by rw [hstore]; exact Memory.wf_writeRun hrxp _ _⟩
  | writesTxp start bytes => exact ⟨Memory.wf_writeRun htxp _ _, htxf, hrxf, hrxp⟩
  | writesRxf start bytes => exact ⟨htxp, htxf, Memory.wf_writeRun hrxf _ _, hrxp⟩
  | stays | refuses | raises | reports | reportsRejected | reportsNothing | setsEncDir | setsTxpLen | setsRxfLen =>
    exact ⟨htxp, htxf, hrxf, hrxp⟩

/-- A store that ends within the extent of a buffer keeps the buffer within it. -/
theorem below_writeRun {m : Memory} {n start : Nat} {bytes : List Byte} (h : m.Below n) (hle : start + bytes.length ≤ n) :
    (m.writeRun start bytes).Below n := by
  intro cell hcell
  rcases List.mem_append.mp hcell with hcell | hcell
  · rcases List.mem_append.mp hcell with hcell | hcell
    · exact h cell (List.mem_filter.mp hcell).1
    · exact (Memory.mem_cellsFrom hcell).2.trans_le hle
  · exact h cell (List.mem_filter.mp hcell).1

/-- Settles O48: every store of a step ends within the extent of its buffer. -/
theorem stepsKeepExtents : Obligations.StepsKeepExtents := by
  rintro s t ⟨htxp, htxf, hrxp⟩ hstep
  obtain ⟨u, rest, heffect, rfl⟩ := stepEffect_of_step hstep
  change u.WithinExtents
  cases heffect with
  | emits i hemit hok =>
    exact ⟨htxp, below_writeRun htxf ((Nat.zero_add _).trans_le (length_encode_hardware_le hok)), hrxp⟩
  | receives i hdec =>
    rw [receive_eq]
    rcases receive_rxp_cases s (payloadOk_of_decodeFrame hdec) with hkeep | ⟨pd, hpd, hstore⟩
    · exact ⟨htxp, htxf, by rw [hkeep]; exact hrxp⟩
    · exact ⟨htxp, htxf, by rw [hstore]; exact below_writeRun hrxp ((Nat.zero_add _).trans_le hpd)⟩
  | writesTxp start bytes hle => exact ⟨below_writeRun htxp hle, htxf, hrxp⟩
  | stays | refuses | raises | reports | reportsRejected | reportsNothing | setsEncDir | setsTxpLen | writesRxf | setsRxfLen =>
    exact ⟨htxp, htxf, hrxp⟩

/-! ### The encoder's ports (R23, R100) -/

/-- R48: an emission leaves the whole form in `TXF`. -/
theorem encoderCoherent_emitFrame (s : State) {i : Instr} (hemit : emitterOf i ≠ none) (hok : payloadOk i = true) :
    (s.emitFrame (encode Config.hardware i)).EncoderCoherent := by
  have hlen := toNat_emitFrame_txfLen s (length_encode_hardware_le hok)
  refine ⟨i, wellFormed_of_payloadOk hemit hok, hemit, hlen, fun a ha => ?_⟩
  simpa using Memory.read_writeRun_inside s.txf 0 _ ha

/-- Settles O49: the encoder operations emit or refuse, and no other step writes the encoder's ports. -/
theorem stepsKeepEncoderCoherent : Obligations.StepsKeepEncoderCoherent := by
  intro s t hs hstep
  obtain ⟨u, rest, heffect, rfl⟩ := stepEffect_of_step hstep
  change u.EncoderCoherent
  cases heffect with
  | emits i hemit hok => exact encoderCoherent_emitFrame s hemit hok
  | refuses => exact rfl
  | receives i hdec =>
    rw [receive_eq]
    exact hs
  | stays | raises | reports | reportsRejected | reportsNothing | setsEncDir | writesTxp | setsTxpLen | writesRxf |
      setsRxfLen =>
    exact hs

/-- R23: with Done, the bytes found in `TXF` are the encoding of a form that some operation emits. -/
theorem txFrame_of_done {s : State} (hs : s.EncoderCoherent) (hdone : s.encStatus = .done) :
    ∃ i, i.wellFormed Config.hardware = true ∧ emitterOf i ≠ none ∧ s.txfLen.toNat = (encode Config.hardware i).length ∧
      s.txFrame = encode Config.hardware i := by
  rw [State.EncoderCoherent, hdone] at hs
  obtain ⟨i, hwf, hemit, hlen, hread⟩ := hs
  refine ⟨i, hwf, hemit, hlen, ?_⟩
  rw [State.txFrame, hlen]
  exact Memory.prefixBytes_eq hread

/-- R100: without Done nothing is emitted. -/
theorem txfLen_of_not_done {s : State} (hs : s.EncoderCoherent) (hdone : s.encStatus ≠ .done) : s.txfLen = 0 := by
  unfold State.EncoderCoherent at hs
  split at hs
  · exact absurd ‹_› hdone
  · exact hs
  · exact hs

/-- Settles O55: the ports stay coherent, and every encoding of a well-formed form decodes. -/
theorem whateverIsEmittedDecodes : Obligations.WhateverIsEmittedDecodes := by
  intro s t hs hstep hdone
  obtain ⟨i, hwf, -, -, hframe⟩ := txFrame_of_done (stepsKeepEncoderCoherent s t hs hstep) hdone
  exact ⟨i, by rw [hframe]; exact decodeOfEncodeIsTheForm _ i hardware_legal hwf⟩

/-- R106: how long the emitted forms are on this hardware. -/
theorem length_encode_of_emitted {i : Instr} (hwf : i.wellFormed Config.hardware = true) (hemit : emitterOf i ≠ none) :
    (encode Config.hardware i).length = 6 ∨
      (8 ≤ (encode Config.hardware i).length ∧ (encode Config.hardware i).length ≤ 262) ∨
      (267 ≤ (encode Config.hardware i).length ∧ (encode Config.hardware i).length ≤ 65546) := by
  rcases fixed_or_dataFrame i with rfl | rfl | ⟨status, rfl⟩ | ⟨form, dir, pd, rfl⟩
  · exact .inl rfl
  · exact .inl rfl
  · exact absurd rfl hemit
  · have hfits := lengthFits_of_payloadOk (payloadOk_of_wellFormed hwf)
    rw [encode_dataFrame]
    cases form with
    | normal =>
      obtain ⟨-, hle⟩ := hfits
      rw [length_normalBytes]
      exact .inr (.inl ⟨by omega, by omega⟩)
    | extended =>
      obtain ⟨hge, hle⟩ := hfits
      have hsize : extLcsSize Config.hardware.extLcsRule = 2 := rfl
      rw [length_extendedBytes, hsize]
      exact .inr (.inr ⟨by omega, by omega⟩)

/-- Settles O56: with Done `TXF_LEN` is the length of an emitted form, else 0. -/
theorem emittedLengthsAreThoseOfTheForms : Obligations.EmittedLengthsAreThoseOfTheForms := by
  intro s t hs hstep
  have ht := stepsKeepEncoderCoherent s t hs hstep
  refine ⟨fun hdone => ?_, fun hdone => ?_⟩
  · obtain ⟨i, hwf, hemit, hlen, -⟩ := txFrame_of_done ht hdone
    rw [hlen]
    exact length_encode_of_emitted hwf hemit
  · rw [txfLen_of_not_done ht hdone]
    rfl

/-! ### The decoder's ports (R26, R162) -/

/-- R134: a reception leaves a frame on the ports, with its whole payload written. -/
theorem decoderCoherent_receive (s : State) {b : List Byte} {i : Instr} (h : decodeFrame Config.hardware b = .ok i) :
    (s.receive i).DecoderCoherent := by
  have hok := payloadOk_of_decodeFrame h
  rcases decodeFrame_eq_ok_cases h with ⟨rfl, -⟩ | ⟨rfl, -⟩ | ⟨rfl, -⟩ | ⟨form, dir, pd, rfl, hfits, -⟩
  · exact ⟨⟨rfl, rfl⟩, fun a ha => absurd ha (Nat.not_lt_zero a)⟩
  · exact ⟨⟨rfl, rfl⟩, fun a ha => absurd ha (Nat.not_lt_zero a)⟩
  · exact ⟨⟨rfl, rfl, rfl⟩, fun a ha => absurd ha (Nat.not_lt_zero a)⟩
  · rw [receive_dataFrame]
    have hlen (kind : DecKind) : (s.returnData kind dir pd).rxpLen.toNat = pd.length := by
      obtain ⟨-, -, -, -, hlen⟩ := returnData_ports s kind dir (chooseForm_of_lengthFits hfits).2
      exact hlen
    refine ⟨?_, fun a ha => ?_⟩
    · cases form with
      | normal =>
        obtain ⟨-, hle⟩ := hfits
        exact ⟨rfl, by rw [hlen]; omega⟩
      | extended =>
        obtain ⟨hge, hle⟩ := hfits
        exact ⟨rfl, by rw [hlen]; omega, by rw [hlen]; omega⟩
    · rw [hlen] at ha
      have hread := Memory.read_writeRun_inside s.rxp 0 pd ha
      rw [Nat.zero_add, List.getElem?_eq_getElem ha] at hread
      rw [State.returnData_rxp, hread]
      nofun

/-- R162, R168: an error leaves its name and information on the ports, and no frame. -/
theorem decoderCoherent_raiseError (s : State) {b : List Byte} {e : ProtocolError}
    (h : decodeFrame Config.hardware b = .error e) : (s.raiseError e).DecoderCoherent := by
  obtain ⟨info, hinfo⟩ := raisesInformed_decodeFrame _ _ e h
  refine ⟨⟨rfl, .inr ?_⟩, fun a ha => absurd ha (Nat.not_lt_zero a)⟩
  rw [State.raiseError_decErr, State.raiseError_decErrInfo, hinfo, Option.getD_some, (errorName_of_errorInfo hinfo).1]

/-- Settles O50: DECODE receives or raises, and no other step writes the decoder's ports. -/
theorem stepsKeepDecoderCoherent : Obligations.StepsKeepDecoderCoherent := by
  intro s t hs hstep
  obtain ⟨u, rest, heffect, rfl⟩ := stepEffect_of_step hstep
  change u.DecoderCoherent
  cases heffect with
  | receives i hdec => exact decoderCoherent_receive s hdec
  | raises e hdec => exact decoderCoherent_raiseError s hdec
  | stays | emits | refuses | reports | reportsRejected | reportsNothing | setsEncDir | writesTxp | setsTxpLen | writesRxf |
      setsRxfLen =>
    exact hs

/-- R26: with a frame on the ports there is no error, and an error frame has the status of the error sequence. -/
theorem decoderCoherent_of_frame {s : State} (hs : s.DecoderCoherent) (hkind : s.decKind ≠ .none) :
    s.decErr = .none ∧ (s.decKind = .errorFrame → s.decStatus = errorStatus Config.hardware) := by
  obtain ⟨hports, -⟩ := hs
  cases hk : s.decKind <;> rw [hk] at hports hkind
  case none => exact absurd rfl hkind
  case errorFrame =>
    obtain ⟨herr, -, hstatus⟩ := hports
    exact ⟨herr, fun _ => hstatus⟩
  all_goals
    obtain ⟨herr, -⟩ := hports
    exact ⟨herr, nofun⟩

/-- R162: an error on the ports is the one whose information is there. -/
theorem decoderCoherent_of_raised {s : State} {name : ErrorName} (hs : s.DecoderCoherent) (hkind : s.decKind = .none)
    (herr : s.decErr = .raised name) : name = infoName s.decErrInfo := by
  obtain ⟨hports, -⟩ := hs
  rw [hkind, herr] at hports
  obtain ⟨-, hnone | hraised⟩ := hports
  · cases hnone
  · exact DecErr.raised.inj hraised

/-- Settles O52: of the three outcomes of a step, the refusal needs a frame and an error at once. -/
theorem coherentBlockStopsOnlyOnBadHostWrite : Obligations.CoherentBlockStopsOnlyOnBadHostWrite := by
  intro s hs
  rcases step_outcomes s with hnext | hfault | ⟨-, -, hkind, herr⟩
  · exact .inl hnext
  · exact .inr hfault
  · exact absurd (decoderCoherent_of_frame hs hkind).1 herr

/-! ### The dispatcher's ports (R28, R156) -/

/-- R26: the frame on the ports is an error frame when `DEC_KIND` says so, with `DEC_STATUS` as its status. -/
theorem decKind_of_heldFrame_error {s : State} {status : Byte} (h : s.heldFrame = some (.error status)) :
    s.decKind = .errorFrame ∧ s.decStatus = status := by
  unfold State.heldFrame at h
  split at h
  · cases h
  · exact absurd (Option.some.inj h) ((dataFrame_ne_fixed _ _ _).2.2 status)
  · exact absurd (Option.some.inj h) ((dataFrame_ne_fixed _ _ _).2.2 status)
  · cases h
  · cases h
  · cases h
    exact ⟨‹_›, rfl⟩

/-- R151 to R154, R156: the announcement of a frame, if an error frame has its status. -/
theorem dispatcherCoherent_announce (s : State) {i : Instr}
    (h : ∀ status, i = .error status → status = errorStatus Config.hardware) :
    (s.announce (eventOfFrame i)).DispatcherCoherent := by
  cases i with
  | error status => exact ⟨rfl, h status rfl⟩
  | ack | nack | extendedH2C | extendedC2H | normalH2C | normalC2H => exact rfl

/-- R156: the errors that an information record can be of are of the framing level. -/
theorem classOf_infoName (info : ErrorInfo) : classOf (.protocol (infoName info)) = .framingLevel := by
  cases info <;> rfl

/-- Settles O51: DISPATCH announces the frame or the error of coherent decoder ports, and no other step writes the event
ports. -/
theorem stepsKeepDispatcherCoherent : Obligations.StepsKeepDispatcherCoherent := by
  intro s t hdec hs hstep
  obtain ⟨u, rest, heffect, rfl⟩ := stepEffect_of_step hstep
  change u.DispatcherCoherent
  cases heffect with
  | reports i hheld =>
    refine dispatcherCoherent_announce s fun status hi => ?_
    obtain ⟨hkind, rfl⟩ := decKind_of_heldFrame_error (hi ▸ hheld)
    exact (decoderCoherent_of_frame hdec (by rw [hkind]; nofun)).2 hkind
  | reportsRejected name hkind herr =>
    rw [decoderCoherent_of_raised hdec hkind herr]
    exact classOf_infoName _
  | reportsNothing => exact rfl
  | receives i =>
    rw [receive_eq]
    exact hs
  | stays | emits | refuses | raises | setsEncDir | writesTxp | setsTxpLen | writesRxf | setsRxfLen => exact hs

/-! ### Reset (R33) -/

/-- Settles O45: the fields of `State.reset`. -/
theorem resetLeavesTheStatedValues : Obligations.ResetLeavesTheStatedValues :=
  ⟨rfl, rfl, rfl, rfl, rfl, rfl, rfl, rfl, rfl⟩

/-- Settles O46: after reset the buffers are empty, and no port holds a result. -/
theorem resetIsCoherent : Obligations.ResetIsCoherent :=
  ⟨⟨Memory.wf_reset .txp, Memory.wf_reset .txf, Memory.wf_reset .rxf, Memory.wf_reset .rxp⟩, ⟨nofun, nofun, nofun⟩, rfl,
    ⟨⟨rfl, .inl rfl⟩, fun a ha => absurd ha (Nat.not_lt_zero a)⟩, rfl⟩

end Sys2Proof.Proofs
end

section
/-! PROOFS. ENCODE and DECODE as functions of their operands (10_state.md R20, 20_memory.md R52, 43_dispatch.md R150): the frame
that ENCODE leaves gives the operands back (42_decode.md R135), and no result depends on what else the state holds. -/

namespace Sys2Proof.Proofs

open Sys2Proof.Machine

/-! ### The loopback (R135) -/

/-- R52: the bytes DECODE finds where the host has copied `TXF` after an emission. -/
theorem rxFrame_of_copied (s : State) {frame : List Byte} (h : frame.length ≤ 65546) (p : List HostAction) :
    { s.emitFrame frame with rxf := (s.emitFrame frame).txf, rxfLen := (s.emitFrame frame).txfLen.toNat,
                             pending := p }.rxFrame = frame := by
  change Memory.prefixBytes .rxf (s.txf.writeRun 0 frame) (s.emitFrame frame).txfLen.toNat = frame
  rw [toNat_emitFrame_txfLen s h, Memory.prefixBytes_writeRun]

/-- R134, R135: the step that starts DECODE on the frame of some operands puts these on the result ports. -/
theorem step_decode_of_frame {u : State} {rest : List HostAction} {dir : Direction} {pd : List Byte}
    (hp : u.pending = .start .decode :: rest) (hle : pd.length ≤ 65534)
    (hframe : u.rxFrame = encode Config.hardware (dataFrame (chooseForm pd) dir pd)) :
    ∃ v, step u = .next v ∧ v.decErr = .none ∧ v.decKind = (if pd.length ≤ 254 then .normal else .extended) ∧
      v.decDir = dir ∧ v.rxPayload = pd ∧ v.rxpLen.toNat = pd.length := by
  have hdec : decodeFrame Config.hardware u.rxFrame = .ok (dataFrame (chooseForm pd) dir pd) := by
    rw [hframe]
    exact decodeFrame_encode_chooseForm hardware_legal dir hle
  refine ⟨_, step_decode_of_ok hp hdec, ?_⟩
  rw [receive_dataFrame, chooseForm_eq]
  by_cases hshort : pd.length ≤ 254
  · rw [if_pos hshort, if_pos hshort]
    obtain ⟨hkind, herr, hports⟩ := returnData_ports u .normal dir hle
    exact ⟨herr, hkind, hports⟩
  · rw [if_neg hshort, if_neg hshort]
    obtain ⟨hkind, herr, hports⟩ := returnData_ports u .extended dir hle
    exact ⟨herr, hkind, hports⟩

/-- Settles O57: the step emits the frame of the operands, and the host's copy of it is what DECODE finds. -/
theorem loopbackGivesBackTheOperands : Obligations.LoopbackGivesBackTheOperands := by
  rintro s t u rest hp hle hstep rfl
  rw [step_encode_of_le hp hle] at hstep
  cases hstep
  have hpd : s.txPayload.length ≤ 65534 := by rwa [length_txPayload]
  have hframe := rxFrame_of_copied s (length_encode_hardware_le (payloadOk_chooseForm s.encDir hpd)) (.start .decode :: rest)
  rw [← length_txPayload]
  exact step_decode_of_frame rfl hpd hframe

/-! ### Independence of everything but the operands (R20, R52) -/

/-- Settles O58: with equal operands both states refuse, or both emit the same frame. -/
theorem encodeDependsOnItsOperandsAlone : Obligations.EncodeDependsOnItsOperandsAlone := by
  rintro s s' t t' rest rest' hp hp' ⟨hdir, hpd⟩ h h'
  have hlen : s.txpLen.toNat = s'.txpLen.toNat := by rw [← length_txPayload, ← length_txPayload, hpd]
  rcases Nat.lt_or_ge 65534 s.txpLen.toNat with hgt | hle
  · rw [step_encode_of_gt hp hgt] at h
    rw [step_encode_of_gt hp' (hlen ▸ hgt)] at h'
    cases h; cases h'
    exact ⟨rfl, rfl, rfl⟩
  · rw [step_encode_of_le hp hle] at h
    rw [step_encode_of_le hp' (hlen ▸ hle), ← hdir, ← hpd] at h'
    cases h; cases h'
    have hshort := length_encode_hardware_le (payloadOk_chooseForm s.encDir (pd := s.txPayload) (by rwa [length_txPayload]))
    exact ⟨rfl, rfl, (txFrame_emitFrame s hshort).trans (txFrame_emitFrame s' hshort).symm⟩

/-- R134: the ports that a reception writes hold the same in every state; those that belong to another kind of result are not
compared. -/
theorem receive_congr (s s' : State) {i : Instr} (h : payloadOk i = true) :
    (s.receive i).decKind = (s'.receive i).decKind ∧ (s.receive i).decErr = (s'.receive i).decErr ∧
      (s.receive i).rxpLen = (s'.receive i).rxpLen ∧ (s.receive i).rxPayload = (s'.receive i).rxPayload ∧
      ((s.receive i).decKind = .normal ∨ (s.receive i).decKind = .extended → (s.receive i).decDir = (s'.receive i).decDir) ∧
      ((s.receive i).decKind = .errorFrame → (s.receive i).decStatus = (s'.receive i).decStatus) := by
  rcases fixed_or_dataFrame i with rfl | rfl | ⟨status, rfl⟩ | ⟨form, dir, pd, rfl⟩
  · exact ⟨rfl, rfl, rfl, rfl, nofun, nofun⟩
  · exact ⟨rfl, rfl, rfl, rfl, nofun, nofun⟩
  · exact ⟨rfl, rfl, rfl, rfl, nofun, fun _ => rfl⟩
  · have hle := (chooseForm_of_lengthFits (lengthFits_of_payloadOk h)).2
    have hpayload (kind : DecKind) : (s.returnData kind dir pd).rxPayload = (s'.returnData kind dir pd).rxPayload := by
      obtain ⟨-, -, -, hs, -⟩ := returnData_ports s kind dir hle
      obtain ⟨-, -, -, hs', -⟩ := returnData_ports s' kind dir hle
      rw [hs, hs']
    rw [receive_dataFrame, receive_dataFrame]
    refine ⟨rfl, rfl, rfl, hpayload _, fun _ => rfl, ?_⟩
    cases form <;> nofun

/-- Settles O59: both states receive the same form, or raise the same error. -/
theorem decodeDependsOnItsInputAlone : Obligations.DecodeDependsOnItsInputAlone := by
  intro s s' t t' rest rest' hp hp' hsame h h'
  cases hdec : decodeFrame Config.hardware s.rxFrame with
  | error e =>
    obtain ⟨info, hinfo⟩ := raisesInformed_decodeFrame _ _ e hdec
    rw [step_decode_of_error hp hdec] at h
    rw [step_decode_of_error hp' (hsame ▸ hdec)] at h'
    cases h; cases h'
    refine ⟨rfl, rfl, rfl, rfl, nofun, nofun, fun _ => ?_⟩
    change (errorInfo e).getD s.decErrInfo = (errorInfo e).getD s'.decErrInfo
    rw [hinfo, Option.getD_some, Option.getD_some]
  | ok i =>
    have hok := payloadOk_of_decodeFrame hdec
    rw [step_decode_of_ok hp hdec] at h
    rw [step_decode_of_ok hp' (hsame ▸ hdec)] at h'
    cases h; cases h'
    obtain ⟨hkind, herr, hlen, hpayload, hdir, hstatus⟩ := receive_congr s s' hok
    exact ⟨hkind, herr, hlen, hpayload, hdir, hstatus, fun hne => absurd (heldFrame_receive s hok).2 hne⟩

/-- R150 to R154: the tag, class and status of the event of a held frame are those of its kind and of `DEC_STATUS`. -/
theorem heldFrame_event_congr {s s' : State} (hkind : s.decKind = s'.decKind) (hstatus : s.decStatus = s'.decStatus)
    (hne : s.decKind ≠ .none) :
    ∃ i i', s.heldFrame = some i ∧ s'.heldFrame = some i' ∧ eventTag (eventOfFrame i) = eventTag (eventOfFrame i') ∧
      classOfEvent (eventOfFrame i) = classOfEvent (eventOfFrame i') ∧
      eventStatus (eventOfFrame i) = eventStatus (eventOfFrame i') := by
  unfold State.heldFrame
  rw [← hkind, ← hstatus]
  cases hk : s.decKind with
  | none => exact absurd hk hne
  | ack | nack | errorFrame => exact ⟨_, _, rfl, rfl, rfl, rfl, rfl⟩
  | normal | extended =>
    refine ⟨_, _, rfl, rfl, ?_⟩
    rw [eventOfFrame_dataFrame, eventOfFrame_dataFrame]
    exact ⟨rfl, rfl, rfl⟩

/-- R153: an `ErrorFrameReceived` carries a status. -/
theorem eventStatus_of_errorFrameReceived {ev : Event} (h : eventTag ev = .errorFrameReceived) :
    ∃ status, eventStatus ev = some status := by
  cases ev with
  | errorFrameReceived status => exact ⟨status, rfl⟩
  | acknowledged | resendRequested | data | rejected => cases h

/-- Settles O60: on equal kind and error DISPATCH takes the same of its four branches, and the event of a frame shows its kind
and status alone. -/
theorem dispatchIgnoresPayloadAndDirection : Obligations.DispatchIgnoresPayloadAndDirection := by
  intro s s' t t' rest rest' hp hp' hkind herr hstatus h h'
  cases he : s.decErr with
  | raised name =>
    by_cases hk : s.decKind = .none
    · rw [step_dispatch_of_raised hp hk he] at h
      rw [step_dispatch_of_raised hp' (hkind ▸ hk) (herr ▸ he)] at h'
      cases h; cases h'
      exact ⟨rfl, rfl, nofun⟩
    · have hrefused := (stepRefusesOnlyWithoutDecodeResult s .noDecodeResult).mpr
        ⟨rfl, State.started_of_pending hp, hk, by rw [he]; nofun⟩
      rw [hrefused] at h
      cases h
  | none =>
    by_cases hk : s.decKind = .none
    · rw [dispatchWithoutDecodeReportsNothing s rest hp hk he] at h
      rw [dispatchWithoutDecodeReportsNothing s' rest' hp' (hkind ▸ hk) (herr ▸ he)] at h'
      cases h; cases h'
      exact ⟨rfl, rfl, nofun⟩
    · obtain ⟨i, i', hheld, hheld', htag, hclass, hcarried⟩ := heldFrame_event_congr hkind hstatus hk
      rw [step_dispatch_of_held hp hheld he] at h
      rw [step_dispatch_of_held hp' hheld' (herr ▸ he)] at h'
      cases h; cases h'
      refine ⟨htag, hclass, fun hevt => ?_⟩
      obtain ⟨status, hsome⟩ := eventStatus_of_errorFrameReceived hevt
      change (eventStatus (eventOfFrame i)).getD s.evtStatus = (eventStatus (eventOfFrame i')).getD s'.evtStatus
      rw [← hcarried, hsome, Option.getD_some, Option.getD_some]

end Sys2Proof.Proofs
end
